-- ==== Sys2Proof/Word.lean ====
section
/-! DEFINITION. The value types of the SPI frame reassembler, with the widths of spec 00_scope R6 and R7. -/

namespace Sys2Proof

/-- One byte of a byte-transfer or of the payload (`BYTE_W` = 8, 00_scope R6). -/
abbrev Byte := BitVec 8

/-- A register address (`ADDR_W` = 16, 00_scope R6). -/
abbrev RegAddr := BitVec 16

/-- The remaining-byte counter (`REM_W` = 10, 00_scope R6). -/
abbrev RemCount := BitVec 10

/-- An extracted identifier (`ID_W` = 11, 00_scope R6). -/
abbrev Ident := BitVec 11

/-- One hexadecimal digit's value, half a byte (00_scope R9). -/
abbrev Nibble := BitVec 4

/-- The 15-bit decode word (30_encoding R80). -/
abbrev DecodeWord := BitVec 15

/-- A string of the spec: hexadecimal text, a message, a mnemonic (00_scope R9). -/
abbrev Text := List Char

end Sys2Proof
end

