-- ==== Sys2Proof/Config.lean ====
section
/-! DEFINITION. The open parameters of spec 00_scope R6 and the free values: what the spec leaves to an
implementation, fixed before the first event (70_reset_and_hazards R193). -/

namespace Sys2Proof

/-- The `OPEN` part of the timestamp type (00_scope R6, 92_eei_decisions D2): which codes stand for a timestamp. It has no
body, so nothing can be proved of how many timestamps there are or which. Log entry 2. -/
opaque Config.isTime : Nat → Bool

/-- The `OPEN` timestamp type `TS`, an arbitrary type (00_scope R6, 92_eei_decisions D2, 93_implementation_defined U4):
the codes that `Config.isTime` admits, and the code 0. A code is only a name for a timestamp: no rule compares timestamps
or computes on them. DESIGN CHOICE, log entry 2: every non-empty countable type is this type for some `Config.isTime`;
safe. -/
structure TS where
  code : Nat
  admitted : code = 0 ∨ Config.isTime code = true
deriving DecidableEq, Repr

/-- The timestamp of code 0, the one timestamp that can be named whatever `TS` is. -/
def TS.first : TS := ⟨0, .inl rfl⟩

/-- A mnemonic: a finite string of printable ASCII characters (00_scope R6, 92_eei_decisions D19). -/
abbrev Mnemonic := Text

namespace Config

/-- The not-found sentinel, exactly the 7-character string "unknown" (00_scope R6, 92_eei_decisions D19). -/
def unknownName : Mnemonic := ['u', 'n', 'k', 'n', 'o', 'w', 'n']

/-- The one mnemonic the source gives, "TIMESTAMP_PRESCALER" (40_register_directory R103). -/
def timestampPrescaler : Mnemonic :=
  ['T', 'I', 'M', 'E', 'S', 'T', 'A', 'M', 'P', '_', 'P', 'R', 'E', 'S', 'C', 'A', 'L', 'E', 'R']

/-- Printable ASCII, codes 0x20 to 0x7E (00_scope R6, 92_eei_decisions D19). -/
def printable (c : Char) : Bool := 0x20 ≤ c.toNat && c.toNat ≤ 0x7E

/-- What `REG_DIR` may hold at an address: a printable ASCII string other than "unknown"
(00_scope R6, 40_register_directory R106). -/
def admissible (m : Mnemonic) : Bool := m.all printable && m != unknownName

/-- The `OPEN` part of `REG_DIR` (00_scope R6, 92_eei_decisions D19): any map at all. It has no body, so no proof can
see an entry of it. Log entry 1. -/
opaque regDirRaw : RegAddr → Option Mnemonic

/-- The ROM contents `REG_DIR`: the entry 40_register_directory R103 requires, and elsewhere whatever the open map holds,
less what R106 and the type of a Mnemonic exclude. Every `REG_DIR` the spec admits is this map for some `regDirRaw`. -/
def regDir (a : RegAddr) : Option Mnemonic :=
  if a = 0x0840#16 then some timestampPrescaler else (regDirRaw a).filter admissible

/-- The value of `rem - 1` when `rem` is 0, as a function of the buffer's length. The spec states no result there: its
arithmetic is on natural numbers (00_scope R7) and R37 rules the state out. DESIGN CHOICE, log entry 3: a free value; safe. -/
opaque remBelowZero : Nat → RemCount

end Config
end Sys2Proof
end

