-- ==== Sys2Proof/Machine/HexText.lean ====
section
/-! DEFINITION. Hexadecimal text: `hex2`, `hex4`, `hexs` and the digits that read it back (spec 00_scope R9). -/

namespace Sys2Proof.Machine

/-- `HEXU`, the upper-case hex alphabet (00_scope R9), each digit with its value. -/
def upperDigits : List (Char × Nibble) :=
  [('0', 0#4), ('1', 1#4), ('2', 2#4), ('3', 3#4), ('4', 4#4), ('5', 5#4), ('6', 6#4), ('7', 7#4),
   ('8', 8#4), ('9', 9#4), ('A', 10#4), ('B', 11#4), ('C', 12#4), ('D', 13#4), ('E', 14#4), ('F', 15#4)]

/-- The lower-case letters that also count as hex digits for the extractor (41_id_extractor R111, 92_eei_decisions D11). -/
def lowerDigits : List (Char × Nibble) :=
  [('a', 10#4), ('b', 11#4), ('c', 12#4), ('d', 13#4), ('e', 14#4), ('f', 15#4)]

/-- `HEXU[n]` (00_scope R9). -/
def hexDigit (n : Nibble) : Char := (upperDigits.getD n.toNat ('0', 0#4)).1

/-- The value of an upper-case hex digit (00_scope R9). -/
def upperValue? (c : Char) : Option Nibble := upperDigits.lookup c

/-- The value of a character of `HEXDIGIT`, either letter case (41_id_extractor R111). -/
def hexValue? (c : Char) : Option Nibble := (upperDigits ++ lowerDigits).lookup c

/-- `hex2(b) = HEXU[b[7:4]] ++ HEXU[b[3:0]]` (00_scope R9). -/
def hex2 (b : Byte) : Text := [hexDigit (b.extractLsb' 4 4), hexDigit (b.extractLsb' 0 4)]

/-- `hex4(hi, lo) = hex2(hi) ++ hex2(lo)`, the address key (00_scope R9, 30_encoding R74). -/
def hex4 (hi lo : Byte) : Text := hex2 hi ++ hex2 lo

/-- `hexs`, the payload hex string (00_scope R9, 30_encoding R76). -/
def hexs : List Byte → Text
  | [] => []
  | b :: bs => hex2 b ++ hexs bs

/-- The values of all characters of a string, when each is a hex digit (41_id_extractor R111). -/
def hexDigits? : Text → Option (List Nibble)
  | [] => some []
  | c :: cs =>
    match hexValue? c, hexDigits? cs with
    | some d, some ds => some (d :: ds)
    | _, _ => none

/-- The unsigned value of hex digits, the first the most significant (41_id_extractor R112). -/
def digitsWord (ds : List Nibble) : BitVec 32 :=
  ds.foldl (fun v d => (v <<< 4) ||| d.setWidth 32) 0#32

end Sys2Proof.Machine
end

