-- ==== Sys2Proof/Machine/Directory.lean ====
section
/-! DEFINITION. The Register Directory, the address lookup ROM (spec 40_register_directory R100-R106, 20_memory R51). -/

namespace Sys2Proof.Machine

/-- `RomRead(a)`, the hardware form: the ROM's location `a` (40_register_directory R100, R105). -/
def romRead (a : RegAddr) : Option Mnemonic := Config.regDir a

/-- The 16-bit index of a key of four upper-case hex characters; any other string has none (40_register_directory R101,
R105). -/
def keyAddr? : Text → Option RegAddr
  | [a, b, c, d] =>
    match upperValue? a, upperValue? b, upperValue? c, upperValue? d with
    | some a, some b, some c, some d => some (a ++ b ++ c ++ d)
    | _, _, _, _ => none
  | _ => none

/-- `RegDirLookup(key)`: the entry whose key string equals `key`, character for character, else "unknown"
(40_register_directory R100, R101). Not finding one is no error (R104). -/
def regDirLookup (key : Text) : Mnemonic :=
  match keyAddr? key with
  | some a => (romRead a).getD Config.unknownName
  | none => Config.unknownName

end Sys2Proof.Machine
end

