-- ==== Sys2Proof/Machine/Extractor.lean ====
section
/-! DEFINITION. The Payload ID Extractor (spec 41_id_extractor R110-R117). -/

namespace Sys2Proof.Machine

/-- The extractor's result: an identifier, or the failure value `InvalidInput`, which is no trap (41_id_extractor R110,
R111). -/
inductive IdResult where
  | ok (id : Ident)
  | invalidInput
deriving DecidableEq, Repr

/-- `TX_MARKER_HI`, the address high byte of the transmit marker (00_scope R6, 41_id_extractor R113). -/
def txMarkerHi : Byte := 0x84#8

/-- `ID_MASK`, the low 29 bits (00_scope R6). -/
def idMask : BitVec 32 := 0x1FFFFFFF#32

/-- `ID_SHIFT` (00_scope R6). -/
def idShift : Nat := 18

/-- The identifier of the first payload word: mask to 29 bits, shift right by 18 (41_id_extractor R112). -/
def idOfWord (v : BitVec 32) : Ident := ((v &&& idMask) >>> idShift).setWidth 11

/-- `IdExtract(p)` on the payload hex string: the validity check of 41_id_extractor R111, over the whole string and in
either letter case, then the computation of R112 on the first eight characters. -/
def idExtract (p : Text) : IdResult :=
  if p.length < 8 then .invalidInput
  else
    match hexDigits? p with
    | none => .invalidInput
    | some ds => .ok (idOfWord (digitsWord (ds.take 8)))

/-- `IdExtractBytes(pbuf)`, the byte-level form (41_id_extractor R114): bits 4:0 of byte 0 over bits 7:2 of byte 1. -/
def idExtractBytes : List Byte → IdResult
  | b0 :: b1 :: _ :: _ :: _ =>
    .ok (((b0.extractLsb' 0 5).setWidth 11 <<< 6) ||| (b1.extractLsb' 2 6).setWidth 11)
  | _ => .invalidInput

end Sys2Proof.Machine
end

