-- ==== Sys2Proof/Syntax.lean ====
section
/-! DEFINITION. The fields of a decode word (spec 30_encoding R80) and the instructions: one constructor for each row of
the decode map (30_encoding R81, opcode_table.json). -/

namespace Sys2Proof

/-- The FSM state, one of six (10_state R21). The codes 0b110 and 0b111 name no state and this type has none
(30_encoding R85). -/
inductive FsmState where
  | cmd | regHigh | regLow | wordCount | dataRead | dataWrite
deriving DecidableEq, Repr

/-- The opcode of a transaction (10_state R22, 30_encoding R72). -/
inductive Opcode where
  | read | write
deriving DecidableEq, Repr

/-- The kind of an input event (30_encoding R77, R78). -/
inductive EvKind where
  | none | sessionStart | byteTransfer | sessionEnd
deriving DecidableEq, Repr

/-- The line a byte was captured on (30_encoding R77, R79). -/
inductive Line where
  | outbound | inbound
deriving DecidableEq, Repr

/-- The kind of an output record (30_encoding R83). -/
inductive RecKind where
  | commandError | readResult | writeResult
deriving DecidableEq, Repr

/-- The instructions: the 15 rows of the decode map (30_encoding R81). The operand is the decode word's byte where the
row leaves it open and its rule reads it; a row whose byte is fixed or read by no rule has no operand. Timestamps are no
part of the decode word: a rule reads them at the port (42_frame_fsm R124). -/
inductive Instr where
  /-- EV_NONE, 42_frame_fsm R121. -/
  | evNone
  /-- EV_SESSION_START, 42_frame_fsm R122. -/
  | evSessionStart
  /-- EV_SESSION_END, 42_frame_fsm R123. -/
  | evSessionEnd
  /-- CMD_WRITE, 42_frame_fsm R125. -/
  | cmdWrite
  /-- CMD_READ, 42_frame_fsm R126. -/
  | cmdRead
  /-- CMD_BADOP, 42_frame_fsm R127: the byte is neither 0x41 nor 0x61. -/
  | cmdBadop (b : Byte)
  /-- REG_HIGH_BYTE, 42_frame_fsm R128. -/
  | regHighByte (b : Byte)
  /-- REG_LOW_BYTE, 42_frame_fsm R129. -/
  | regLowByte (b : Byte)
  /-- WC_ZERO_READ, 42_frame_fsm R131. -/
  | wcZeroRead
  /-- WC_ZERO_WRITE, 42_frame_fsm R132. -/
  | wcZeroWrite
  /-- WC_NONZERO, 42_frame_fsm R130: the byte is not 0x00. -/
  | wcNonzero (b : Byte)
  /-- DATA_READ_MORE, 42_frame_fsm R133. -/
  | dataReadMore (b : Byte)
  /-- DATA_READ_LAST, 42_frame_fsm R134. -/
  | dataReadLast (b : Byte)
  /-- DATA_WRITE_MORE, 42_frame_fsm R135. -/
  | dataWriteMore (b : Byte)
  /-- DATA_WRITE_LAST, 42_frame_fsm R136. -/
  | dataWriteLast (b : Byte)
deriving DecidableEq, Repr

end Sys2Proof
end

