-- ==== Sys2Proof/Machine/State.lean ====
section
/-! DEFINITION. The state of one block (spec 10_state R20), its ports (10_state R36), the records it emits
(30_encoding R84), the reasons a step can stop, and the power-on state (70_reset_and_hazards R190). -/

namespace Sys2Proof.Machine

/-- One sample of the input ports, one event (10_state R36, 30_encoding R78). A field the kind does not use carries any
value and no rule reads it. -/
structure PortSample where
  /-- `ev_kind`. -/
  kind : EvKind
  /-- `ev_t0`: the timestamp of a session event, the start time of a byte. -/
  t0 : TS
  /-- `ev_t1`: the end time of a byte. -/
  t1 : TS
  /-- `ev_line`: read by no rule (30_encoding R79). -/
  line : Line
  /-- `ev_byte`: the value of a byte-transfer. -/
  byte : Byte
deriving DecidableEq, Repr

/-- A Decoded Record (30_encoding R84; the fields of each variant: R82). -/
structure Record where
  kind : RecKind
  addr : Option RegAddr
  /-- The 4-character address key. -/
  key : Option Text
  name : Option Mnemonic
  payload : List Byte
  /-- `hexs` of the payload, always (30_encoding R84). -/
  payloadHex : Text
  msg : Text
  tStart : TS
  tEnd : TS
  /-- The identifier, when one is attached. -/
  id : Option Ident
deriving DecidableEq, Repr

/-- The Transaction registers that some rule reads (the table of 10_state R20). -/
inductive Reg where
  | op | addrHi | addrLo | name | rem | tOpStart | tWrStart
deriving DecidableEq, Repr

/-- Why a step stops with a fault. -/
inductive Fault where
  /-- A rule read a Transaction register that is unwritten, the spec's own reset and discard value. The spec makes this
  read a fault of the model (10_state, opening paragraph; 92_eei_decisions D7, D33; 93_implementation_defined U5). Raised by the register reads of `Machine/Operands.lean` and by
  `fetchWord`. Safe: in no reachable state does a rule read an unwritten register (10_state R37). -/
  | readUnwritten (r : Reg)
deriving DecidableEq, Repr

/-- Why a step refuses. -/
inductive Refusal where
  /-- An instruction of the decode map that has no meaning in this model yet. No arm of `exec` answers it. Safe. -/
  | notModelled (mnemonic : String)
  /-- The decode word matches no row: BYTE_TRANSFER with the state code 0b110 or 0b111 (30_encoding R81, R85; 93 U7:
  refuse). Raised by `step`. Safe: `FsmState` has no such code, so no state forms such a word. -/
  | noRow
deriving DecidableEq, Repr

/-- The state of one block (10_state R20), with its ports and the host's side of them. A register that is unwritten
holds `none`, as the spec's opening paragraph of 10_state says. -/
structure State where
  /-- 10_state R21. -/
  st : FsmState
  /-- 10_state R22. -/
  op : Option Opcode
  /-- 10_state R23. -/
  addrHi : Option Byte
  /-- 10_state R24. -/
  addrLo : Option Byte
  /-- 10_state R25. -/
  name : Option Mnemonic
  /-- 10_state R26. -/
  wc : Option Byte
  /-- 10_state R27. -/
  rem : Option RemCount
  /-- 10_state R28: the payload buffer; `plen` is its length. -/
  pbuf : List Byte
  /-- 10_state R29. -/
  tOpStart : Option TS
  /-- 10_state R30. -/
  tHdrEnd : Option TS
  /-- 10_state R31. -/
  tWrStart : Option TS
  /-- 10_state R32; an optional Mnemonic, `none` before the first result. -/
  prevName : Option Mnemonic
  /-- The output ports `rec_*` of the last step: the record it emitted, or none (10_state R36, 60_exceptions R177). -/
  out : Option Record
  /-- The model's own field, log entry 5: the events the host has still to deliver, the next one first
  (70_reset_and_hazards R195, R198). -/
  inp : List PortSample
  /-- The model's own field, log entry 4: the records the host has taken, in order: a run's observation
  (00_scope R10, 70_reset_and_hazards R197, R198). -/
  taken : List Record
deriving DecidableEq, Repr

/-- `plen`, the number of payload bytes in the buffer (10_state R28). -/
abbrev State.plen (s : State) : Nat := s.pbuf.length

/-- The bound the buffer keeps: at most 1020 bytes (10_state R28, R37 item 7). A list of bytes has no second form, so
equal buffers are equal data. -/
def Memory.wf (buf : List Byte) : Bool := buf.length ≤ 1020

/-- The power-on state (70_reset_and_hazards R190): `st = CMD`, an empty buffer, `prev_name = none` and every Transaction
register unwritten. Nothing has been delivered or emitted yet. -/
def State.reset : State where
  st := .cmd
  op := none
  addrHi := none
  addrLo := none
  name := none
  wc := none
  rem := none
  pbuf := []
  tOpStart := none
  tHdrEnd := none
  tWrStart := none
  prevName := none
  out := none
  inp := []
  taken := []

/-- What a meaning answers. -/
abbrev Result := Host.Outcome State Fault Refusal

end Sys2Proof.Machine
end

