-- ==== Sys2Proof/Machine/Operands.lean ====
section
/-! DEFINITION. The operands of a rule: the event at the input ports (spec 42_frame_fsm R124, 10_state R36) and the
Transaction registers it reads (10_state R20). -/

namespace Sys2Proof.Machine

/-- The port with no event: NONE (30_encoding R78). Its other fields are read by no rule; log entry 5. -/
def PortSample.idle : PortSample :=
  { kind := .none, t0 := .first, t1 := .first, line := .outbound, byte := 0x00#8 }

/-- The input ports in this step: the host's next event, or NONE when none is left (42_frame_fsm R121, R143). -/
def State.port (s : State) : PortSample := s.inp.headD .idle

/-- `t0`, the `start_time` of the byte at the port (42_frame_fsm R124). -/
def State.startTime (s : State) : TS := s.port.t0

/-- `t1`, the `end_time` of the byte at the port (42_frame_fsm R124). -/
def State.endTime (s : State) : TS := s.port.t1

/-- Read a Transaction register and go on with its value; an unwritten one faults, as the spec says (10_state, opening
paragraph; 92_eei_decisions D7, D33; 93_implementation_defined U5). -/
def readReg {α : Type} (r : Reg) (v : Option α) (k : α → Result) : Result :=
  match v with
  | some x => k x
  | none => .fault (.readUnwritten r)

/-- The payload state an opcode selects at the word-count byte (10_state R22, 30_encoding R72, 42_frame_fsm R130). -/
def payloadState : Opcode → FsmState
  | .read => .dataRead
  | .write => .dataWrite

/-- The payload byte count `4 × N = N ++ 0b00` (30_encoding R75, 42_frame_fsm R130). -/
def payloadCount (n : Byte) : RemCount := n ++ 0b00#2

/-- `rem - 1` with `plen` bytes in the buffer (42_frame_fsm R133, R135). At 0 the spec states no result: a free value,
log entry 3. -/
def remPred (plen : Nat) (r : RemCount) : RemCount :=
  if r = 0#10 then Config.remBelowZero plen else r - 1#10

end Sys2Proof.Machine
end

