-- ==== Sys2Proof/Machine/Ops.lean ====
section
/-! DEFINITION. The shared operations of the FSM's rules: emitting a record, the payload buffer, the transaction
lifecycle and the error report (spec 00_scope R8, 20_memory R52, 42_frame_fsm R137-R140, 60_exceptions R170). -/

namespace Sys2Proof.Machine

/-- No record in this step: `rec_valid` is 0 (30_encoding R83; 60_exceptions R177: no record is held across steps). -/
def State.quiet (s : State) : State := { s with out := none }

/-- `emit(rec)`: the record is on the output in this step and the host takes it (00_scope R8, 70_reset_and_hazards
R197). -/
def State.emit (r : Record) (s : State) : State := { s with out := some r, taken := s.taken ++ [r] }

/-- `BufAppend(b)` (20_memory R52). -/
def State.bufAppend (b : Byte) (s : State) : State := { s with pbuf := s.pbuf ++ [b] }

/-- Payload byte `k` of the buffer, none at or above `plen` (20_memory R54). -/
def State.bufRead (s : State) (k : Nat) : Option Byte := s.pbuf[k]?

/-- `if plen = 0 then t_wr_start <- t0` (42_frame_fsm R135, R136): the first payload byte pins a write's start time. -/
def State.pinWriteStart (t0 : TS) (s : State) : State :=
  if s.pbuf = [] then { s with tWrStart := some t0 } else s

/-- `Discard()`, the end of a Transaction: every Transaction register unwritten, the buffer empty (42_frame_fsm R140). -/
def State.discard (s : State) : State :=
  { s with
    op := none, addrHi := none, addrLo := none, name := none, wc := none, rem := none
    tOpStart := none, tHdrEnd := none, tWrStart := none
    pbuf := [] }

/-- `IdField()` of a completing WRITE: the extractor's identifier at the transmit marker, none elsewhere or where it
fails (42_frame_fsm R137, 41_id_extractor R113, R115). -/
def idField (addrHi : Byte) (pbuf : List Byte) : Option Ident :=
  if addrHi = txMarkerHi then
    match idExtract (hexs pbuf) with
    | .ok i => some i
    | .invalidInput => none
  else none

/-- The identifier of a record of a kind: only a Write-Result may carry one (42_frame_fsm R138). -/
def resultId (kind : RecKind) (addrHi : Byte) (pbuf : List Byte) : Option Ident :=
  match kind with
  | .writeResult => idField addrHi pbuf
  | .readResult => none
  | .commandError => none

/-- `ResultRec(kind, ts, te)` from the registers it reads (42_frame_fsm R138). -/
def resultRec (kind : RecKind) (hi lo : Byte) (name : Mnemonic) (pbuf : List Byte) (ts te : TS) : Record where
  kind := kind
  addr := some (hi ++ lo)
  key := some (hex4 hi lo)
  name := some name
  payload := pbuf
  payloadHex := hexs pbuf
  msg := []
  tStart := ts
  tEnd := te
  id := resultId kind hi pbuf

/-- The completion of a Transaction: emit its record, keep its name in `prev_name`, discard it and return to CMD
(42_frame_fsm R131, R132, R134, R136 with R138, R139, R140). -/
def complete (kind : RecKind) (ts te : TS) (s : State) : Result :=
  readReg .addrHi s.addrHi fun hi =>
  readReg .addrLo s.addrLo fun lo =>
  readReg .name s.name fun name =>
  let s := s.emit (resultRec kind hi lo name s.pbuf ts te)
  let s := { s with prevName := some name }
  .next { s.discard with st := .cmd }

/-- The message of a Command-Error, "unexpected data" (42_frame_fsm R127, 92_eei_decisions D31). -/
def unexpectedData : Text :=
  ['u', 'n', 'e', 'x', 'p', 'e', 'c', 't', 'e', 'd', ' ', 'd', 'a', 't', 'a']

/-- The Command-Error record of an illegal opcode byte (42_frame_fsm R127, 30_encoding R82). -/
def commandError (b : Byte) (t0 t1 : TS) : Record where
  kind := .commandError
  addr := none
  key := none
  name := none
  payload := [b]
  payloadHex := hex2 b
  msg := unexpectedData
  tStart := t0
  tEnd := t1
  id := none

/-- Report an error, the block's whole exception mechanism: a record and nothing else. No state is saved, no mode
changes and control is not redirected (60_exceptions R170, R171, R174); there is no return (R175), the FSM goes on in
the state it is in. -/
def reportError (r : Record) (s : State) : State := s.emit r

/-- The header-only end of a transaction at the word-count byte 0x00: `wc <- 0; rem <- 0; t_hdr_end <- t1`, then
complete with the opcode byte's start time (42_frame_fsm R131, R132). -/
def headerOnly (kind : RecKind) (s : State) : Result :=
  let te := s.endTime
  readReg .tOpStart s.tOpStart fun ts =>
  complete kind ts te { s with wc := some 0x00#8, rem := some 0#10, tHdrEnd := some te }

/-- Count one payload byte: append it and decrement `rem` (42_frame_fsm R133, R135). -/
def countByte (b : Byte) (s : State) : Result :=
  readReg .rem s.rem fun r =>
  .next ({ s with rem := some (remPred s.plen r) }.bufAppend b).quiet

/-- The step is over: the host's stream moves past the event it has delivered (00_scope R10, 20_memory R62). -/
def State.pastEvent (s : State) : State := { s with inp := s.inp.tail }

/-- Move a meaning's next state past its event. -/
def pastEvent (r : Result) : Result :=
  match r with
  | .next s => .next s.pastEvent
  | .fault f => .fault f
  | .refused f => .refused f

end Sys2Proof.Machine
end

