-- ==== Sys2Proof/Machine/Command.lean ====
section
/-! DEFINITION. A byte in CMD: the opcode byte (spec 42_frame_fsm R125-R127). -/

namespace Sys2Proof.Machine

/-- An accepted opcode opens a Transaction (42_frame_fsm R125, R126). -/
def openTransaction (o : Opcode) (s : State) : Result :=
  .next { s.quiet with op := some o, tOpStart := some s.startTime, st := .regHigh }

/-- CMD_WRITE: opcode 0x61 (42_frame_fsm R125). -/
def execCmdWrite (s : State) : Result := openTransaction .write s

/-- CMD_READ: opcode 0x41 (42_frame_fsm R126). -/
def execCmdRead (s : State) : Result := openTransaction .read s

/-- CMD_BADOP: an illegal opcode byte gives one Command-Error; no register is written and the FSM stays in CMD
(42_frame_fsm R127, 60_exceptions EC1 of R170). -/
def execCmdBadop (b : Byte) (s : State) : Result :=
  .next (reportError (commandError b s.startTime s.endTime) s)

end Sys2Proof.Machine
end

