-- ==== Sys2Proof/Machine/Header.lean ====
section
/-! DEFINITION. The address and word-count bytes of a header (spec 42_frame_fsm R128-R132). -/

namespace Sys2Proof.Machine

/-- REG_HIGH_BYTE: the address high byte (42_frame_fsm R128). -/
def execRegHighByte (b : Byte) (s : State) : Result :=
  .next { s.quiet with addrHi := some b, st := .regLow }

/-- REG_LOW_BYTE: the address low byte and the directory lookup (42_frame_fsm R129). -/
def execRegLowByte (b : Byte) (s : State) : Result :=
  readReg .addrHi s.addrHi fun hi =>
  .next { s.quiet with addrLo := some b, name := some (regDirLookup (hex4 hi b)), st := .wordCount }

/-- WC_ZERO_READ: a header-only READ completes at its word-count byte (42_frame_fsm R131). -/
def execWcZeroRead (s : State) : Result := headerOnly .readResult s

/-- WC_ZERO_WRITE: a header-only WRITE completes at its word-count byte (42_frame_fsm R132). -/
def execWcZeroWrite (s : State) : Result := headerOnly .writeResult s

/-- WC_NONZERO: the word count sets `rem` and the opcode selects the payload state (42_frame_fsm R130). -/
def execWcNonzero (b : Byte) (s : State) : Result :=
  readReg .op s.op fun o =>
  .next { s.quiet with
    wc := some b, rem := some (payloadCount b), tHdrEnd := some s.endTime, st := payloadState o }

end Sys2Proof.Machine
end

