-- ==== Sys2Proof/Machine/Payload.lean ====
section
/-! DEFINITION. The payload bytes (spec 42_frame_fsm R133-R136). -/

namespace Sys2Proof.Machine

/-- DATA_READ_MORE: a payload byte of a READ, not the last (42_frame_fsm R133). -/
def execDataReadMore (b : Byte) (s : State) : Result := countByte b s

/-- DATA_READ_LAST: the last payload byte of a READ (42_frame_fsm R134). -/
def execDataReadLast (b : Byte) (s : State) : Result :=
  let te := s.endTime
  let s := { s.bufAppend b with rem := some 0#10 }
  readReg .tOpStart s.tOpStart fun ts => complete .readResult ts te s

/-- DATA_WRITE_MORE: a payload byte of a WRITE, not the last; the first one pins the start time (42_frame_fsm R135). -/
def execDataWriteMore (b : Byte) (s : State) : Result := countByte b (s.pinWriteStart s.startTime)

/-- DATA_WRITE_LAST: the last payload byte of a WRITE (42_frame_fsm R136). -/
def execDataWriteLast (b : Byte) (s : State) : Result :=
  let te := s.endTime
  let s := { (s.pinWriteStart s.startTime).bufAppend b with rem := some 0#10 }
  readReg .tWrStart s.tWrStart fun ts => complete .writeResult ts te s

end Sys2Proof.Machine
end

