-- ==== Sys2Proof/Machine/Session.lean ====
section
/-! DEFINITION. The session and idle events (spec 42_frame_fsm section 2). -/

namespace Sys2Proof.Machine

/-- EV_NONE, port idle: no register changes, no record (42_frame_fsm R121). -/
def execEvNone (s : State) : Result := .next s.quiet

/-- EV_SESSION_START, chip-select asserted: `Discard()`, then CMD; `prev_name` stays (42_frame_fsm R122). -/
def execEvSessionStart (s : State) : Result := .next { s.discard.quiet with st := .cmd }

/-- EV_SESSION_END, chip-select deasserted: no register changes, no record (42_frame_fsm R123). -/
def execEvSessionEnd (s : State) : Result := .next s.quiet

end Sys2Proof.Machine
end

