-- ==== Sys2Proof/Machine/Dispatch.lean ====
section
/-! DEFINITION. The dispatch: one arm for each row of the decode map (spec 30_encoding R81, 42_frame_fsm R120). -/

namespace Sys2Proof.Machine

/-- The rule of an instruction, run in a state (42_frame_fsm R120). -/
def exec (i : Instr) (s : State) : Host.Outcome State Fault Refusal :=
  match i with
  | .evNone => Sys2Proof.Machine.execEvNone s
  | .evSessionStart => Sys2Proof.Machine.execEvSessionStart s
  | .evSessionEnd => Sys2Proof.Machine.execEvSessionEnd s
  | .cmdWrite => Sys2Proof.Machine.execCmdWrite s
  | .cmdRead => Sys2Proof.Machine.execCmdRead s
  | .cmdBadop b => Sys2Proof.Machine.execCmdBadop b s
  | .regHighByte b => Sys2Proof.Machine.execRegHighByte b s
  | .regLowByte b => Sys2Proof.Machine.execRegLowByte b s
  | .wcZeroRead => Sys2Proof.Machine.execWcZeroRead s
  | .wcZeroWrite => Sys2Proof.Machine.execWcZeroWrite s
  | .wcNonzero b => Sys2Proof.Machine.execWcNonzero b s
  | .dataReadMore b => Sys2Proof.Machine.execDataReadMore b s
  | .dataReadLast b => Sys2Proof.Machine.execDataReadLast b s
  | .dataWriteMore b => Sys2Proof.Machine.execDataWriteMore b s
  | .dataWriteLast b => Sys2Proof.Machine.execDataWriteLast b s

end Sys2Proof.Machine
end

