-- ==== Sys2Proof/WellFormed.lean ====
section
/-! DEFINITION. Which instructions the decode map can select: the two priority-2 rows apply only to the bytes that no
priority-1 row of their state takes (spec 30_encoding R81). -/

namespace Sys2Proof

/-- The check on an instruction's operand (30_encoding R81): CMD_BADOP to bytes other than 0x41 and 0x61, WC_NONZERO to
bytes other than 0x00. -/
def Instr.wf : Instr → Bool
  | .evNone => true
  | .evSessionStart => true
  | .evSessionEnd => true
  | .cmdWrite => true
  | .cmdRead => true
  | .cmdBadop b => b != 0x41#8 && b != 0x61#8
  | .regHighByte _ => true
  | .regLowByte _ => true
  | .wcZeroRead => true
  | .wcZeroWrite => true
  | .wcNonzero b => b != 0x00#8
  | .dataReadMore _ => true
  | .dataReadLast _ => true
  | .dataWriteMore _ => true
  | .dataWriteLast _ => true

/-- An instruction that the decode map can select. -/
abbrev Instr.WellFormed (i : Instr) : Prop := i.wf = true

end Sys2Proof
end

