-- ==== Sys2Proof/Decode.lean ====
section
/-! DEFINITION. The decode word, the decode map, the decoder and the encoder (spec 30_encoding R80, R81), with the codes
of the fields (10_state R21, 30_encoding R78, R79, R83). -/

namespace Sys2Proof

/-! ### Codes of the fields -/

/-- The 3-bit code of an FSM state (10_state R21). -/
def FsmState.code : FsmState → BitVec 3
  | .cmd => 0b000#3
  | .regHigh => 0b001#3
  | .regLow => 0b010#3
  | .wordCount => 0b011#3
  | .dataRead => 0b100#3
  | .dataWrite => 0b101#3

/-- The FSM state of a code; the codes 0b110 and 0b111 name none (10_state R21). -/
def FsmState.ofCode? (c : BitVec 3) : Option FsmState :=
  if c = 0b000#3 then some .cmd
  else if c = 0b001#3 then some .regHigh
  else if c = 0b010#3 then some .regLow
  else if c = 0b011#3 then some .wordCount
  else if c = 0b100#3 then some .dataRead
  else if c = 0b101#3 then some .dataWrite
  else none

/-- The 2-bit code of an event kind on `ev_kind` (30_encoding R78). -/
def EvKind.code : EvKind → BitVec 2
  | .none => 0b00#2
  | .sessionStart => 0b01#2
  | .byteTransfer => 0b10#2
  | .sessionEnd => 0b11#2

/-- The event kind of a code (30_encoding R78): each of the four codes is one. -/
def EvKind.ofCode (c : BitVec 2) : EvKind :=
  if c = 0b00#2 then .none
  else if c = 0b01#2 then .sessionStart
  else if c = 0b10#2 then .byteTransfer
  else .sessionEnd

/-- The 1-bit code of a line on `ev_line` (30_encoding R79). -/
def Line.code : Line → BitVec 1
  | .outbound => 0#1
  | .inbound => 1#1

/-- The 2-bit code of a record kind on `rec_kind`; 0b00 is none of them (30_encoding R83). -/
def RecKind.code : RecKind → BitVec 2
  | .commandError => 0b01#2
  | .readResult => 0b10#2
  | .writeResult => 0b11#2

/-- The opcode that bit 9 of a decode word stands for (30_encoding R80). -/
def Opcode.ofOpw (opw : Bool) : Opcode := if opw then .write else .read

/-! ### The decode word -/

/-- The decode word of its five fields, kind in bits 14:13 down to the byte in bits 7:0 (30_encoding R80). -/
def DecodeWord.form (kind : BitVec 2) (state : BitVec 3) (opw last : Bool) (byte : Byte) : DecodeWord :=
  kind ++ state ++ BitVec.ofBool opw ++ BitVec.ofBool last ++ byte

/-- Bits 14:13, the event kind (30_encoding R80). -/
def DecodeWord.kind (w : DecodeWord) : BitVec 2 := w.extractLsb' 13 2

/-- Bits 12:10, the state code (30_encoding R80). -/
def DecodeWord.state (w : DecodeWord) : BitVec 3 := w.extractLsb' 10 3

/-- Bit 9, set when `op` is WRITE (30_encoding R80). -/
def DecodeWord.opw (w : DecodeWord) : Bool := w.getLsbD 9

/-- Bit 8, set when `rem` is 1 (30_encoding R80). -/
def DecodeWord.last (w : DecodeWord) : Bool := w.getLsbD 8

/-- Bits 7:0, `ev_byte` (30_encoding R80). -/
def DecodeWord.byte (w : DecodeWord) : Byte := w.extractLsb' 0 8

/-! ### The decode map -/

/-- One row of the decode map (30_encoding R81). -/
structure Row where
  /-- Rows of a lower number are tried first. -/
  prio : Nat
  /-- The row's mnemonic. -/
  mnemonic : String
  /-- The bits the word must have where the mask is set. -/
  pattern : DecodeWord
  /-- The bits of the word the row looks at. -/
  mask : DecodeWord
  /-- The instruction, from the word's byte. -/
  build : Byte → Instr

/-- Whether a word matches a row: `(word & mask) = match` (30_encoding R81). -/
def Row.hits (r : Row) (w : DecodeWord) : Bool := (w &&& r.mask) == r.pattern

/-- The decode map, row by row in the table's order (30_encoding R81). -/
def decodeMap : List Row :=
  [ ⟨1, "EV_NONE",          0x0000#15, 0x6000#15, fun _ => .evNone⟩,
    ⟨1, "EV_SESSION_START", 0x2000#15, 0x6000#15, fun _ => .evSessionStart⟩,
    ⟨1, "EV_SESSION_END",   0x6000#15, 0x6000#15, fun _ => .evSessionEnd⟩,
    ⟨1, "CMD_WRITE",        0x4061#15, 0x7CFF#15, fun _ => .cmdWrite⟩,
    ⟨1, "CMD_READ",         0x4041#15, 0x7CFF#15, fun _ => .cmdRead⟩,
    ⟨2, "CMD_BADOP",        0x4000#15, 0x7C00#15, fun b => .cmdBadop b⟩,
    ⟨1, "REG_HIGH_BYTE",    0x4400#15, 0x7C00#15, fun b => .regHighByte b⟩,
    ⟨1, "REG_LOW_BYTE",     0x4800#15, 0x7C00#15, fun b => .regLowByte b⟩,
    ⟨1, "WC_ZERO_READ",     0x4C00#15, 0x7EFF#15, fun _ => .wcZeroRead⟩,
    ⟨1, "WC_ZERO_WRITE",    0x4E00#15, 0x7EFF#15, fun _ => .wcZeroWrite⟩,
    ⟨2, "WC_NONZERO",       0x4C00#15, 0x7C00#15, fun b => .wcNonzero b⟩,
    ⟨1, "DATA_READ_MORE",   0x5000#15, 0x7D00#15, fun b => .dataReadMore b⟩,
    ⟨1, "DATA_READ_LAST",   0x5100#15, 0x7D00#15, fun b => .dataReadLast b⟩,
    ⟨1, "DATA_WRITE_MORE",  0x5400#15, 0x7D00#15, fun b => .dataWriteMore b⟩,
    ⟨1, "DATA_WRITE_LAST",  0x5500#15, 0x7D00#15, fun b => .dataWriteLast b⟩ ]

/-- The row a word selects: the first of priority 1 that it matches, else the first of priority 2 (30_encoding R81). -/
def selectRow (w : DecodeWord) : Option Row :=
  match decodeMap.find? (fun r => r.prio == 1 && r.hits w) with
  | some r => some r
  | none => decodeMap.find? (fun r => r.prio == 2 && r.hits w)

/-- Why a decode word is no instruction. -/
inductive DecodeRefusal where
  /-- BYTE_TRANSFER in a state code that names no state: no row matches (30_encoding R81, R85). -/
  | noStateOfCode (code : BitVec 3)
deriving DecidableEq, Repr

/-- The decoder, total on decode words (30_encoding R81). -/
def decode (w : DecodeWord) : Except DecodeRefusal Instr :=
  match selectRow w with
  | some r => .ok (r.build w.byte)
  | none => .error (.noStateOfCode w.state)

/-- The encoder: the word of an instruction, each field written out from 10_state R21 and 30_encoding R72, R78, R81, with
every don't-care bit 0 (95_test_vectors section 2.5). -/
def encode : Instr → DecodeWord
  | .evNone => .form 0b00#2 0b000#3 false false 0x00#8
  | .evSessionStart => .form 0b01#2 0b000#3 false false 0x00#8
  | .evSessionEnd => .form 0b11#2 0b000#3 false false 0x00#8
  | .cmdWrite => .form 0b10#2 0b000#3 false false 0x61#8
  | .cmdRead => .form 0b10#2 0b000#3 false false 0x41#8
  | .cmdBadop b => .form 0b10#2 0b000#3 false false b
  | .regHighByte b => .form 0b10#2 0b001#3 false false b
  | .regLowByte b => .form 0b10#2 0b010#3 false false b
  | .wcZeroRead => .form 0b10#2 0b011#3 false false 0x00#8
  | .wcZeroWrite => .form 0b10#2 0b011#3 true false 0x00#8
  | .wcNonzero b => .form 0b10#2 0b011#3 false false b
  | .dataReadMore b => .form 0b10#2 0b100#3 false false b
  | .dataReadLast b => .form 0b10#2 0b100#3 false true b
  | .dataWriteMore b => .form 0b10#2 0b101#3 false false b
  | .dataWriteLast b => .form 0b10#2 0b101#3 false true b

/-- The decode word in the low `nbits` bits of a number. The word has bits 14 to 0 only (30_encoding R80): a bit above
them belongs to no field and is not read. DESIGN CHOICE, log entry 8; safe, no step forms such a bit. -/
def tableWord (nbits w : Nat) : DecodeWord := BitVec.ofNat 15 (w % 2 ^ nbits)

/-- What the decoder reads from a word numbered as opcode_table.json numbers it. -/
def decodeTableWord (nbits w : Nat) : Option Instr :=
  match decode (tableWord nbits w) with
  | .ok i => some i
  | .error _ => none

end Sys2Proof
end

