-- ==== Sys2Proof/Machine/Fetch.lean ====
section
/-! DEFINITION. How a step's instruction is selected: the decode word the block forms from the event at its port and its
registers (spec 30_encoding R80, 42_frame_fsm R124), and the placing of a given decode word for the next step. -/

namespace Sys2Proof.Machine

/-- The decode word `[ev_kind, code(st), op = WRITE, rem = 1, ev_byte]` (30_encoding R80, 42_frame_fsm R124); a
don't-care bit of an unwritten register is 0 (95_test_vectors section 2.5). -/
def State.decodeWord (s : State) : DecodeWord :=
  .form s.port.kind.code s.st.code (s.op == some .write) (s.rem == some 1#10) s.port.byte

/-- The registers the selection reads: `op` for a byte in WORD_COUNT, `rem` for a payload byte (30_encoding R80, R81).
The other rows have a don't-care there. -/
def State.selectionGap (s : State) : Option Reg :=
  match s.port.kind with
  | .none => none
  | .sessionStart => none
  | .sessionEnd => none
  | .byteTransfer =>
    match s.st with
    | .cmd => none
    | .regHigh => none
    | .regLow => none
    | .wordCount => if s.op.isSome then none else some .op
    | .dataRead => if s.rem.isSome then none else some .rem
    | .dataWrite => if s.rem.isSome then none else some .rem

/-- The decode word of this step; an unwritten register that the selection reads faults, as the
spec says (10_state, opening paragraph, with R20's column "read by"; 92_eei_decisions D7; 93_implementation_defined U5). -/
def fetchWord (s : State) : Except Fault DecodeWord :=
  match s.selectionGap with
  | some r => .error (.readUnwritten r)
  | none => .ok s.decodeWord

/-- Whether the next step in `s` runs the instruction `i` (42_frame_fsm R120, R124). -/
def State.selects (s : State) (i : Instr) : Bool :=
  match fetchWord s with
  | .error _ => false
  | .ok w =>
    match decode w with
    | .error _ => false
    | .ok j => j == i

/-- The host delivers `p` as the next event (70_reset_and_hazards R195). -/
def State.present (p : PortSample) (s : State) : State := { s with inp := p :: s.inp }

/-- The event of a decode word: its kind and its byte (30_encoding R80). The word carries no time and no line; log
entry 7. -/
def portOfWord (w : DecodeWord) : PortSample :=
  { kind := .ofCode w.kind, t0 := .first, t1 := .first, line := .outbound, byte := w.byte }

/-- The state of a Transaction that stands in `f` with the bits `opw` and `last` of a decode word: `s` with the registers
10_state R37 requires there, the header being that of a one-word transaction at 0x0840. Log entry 7. -/
def State.placedIn (f : FsmState) (opw last : Bool) (s : State) : State :=
  let idle : State := { s.discard with st := f }
  let opened (o : Opcode) : State := { idle with op := some o, tOpStart := some .first }
  let addressed (o : Opcode) : State :=
    { opened o with
      addrHi := some 0x08#8, addrLo := some 0x40#8, name := some (regDirLookup (hex4 0x08#8 0x40#8)) }
  let counting (o : Opcode) (tw : Option TS) : State :=
    if last then
      { addressed o with
        wc := some 0x01#8, tHdrEnd := some .first, rem := some 1#10, pbuf := [0x00#8, 0x00#8, 0x00#8], tWrStart := tw }
    else { addressed o with wc := some 0x01#8, tHdrEnd := some .first, rem := some 4#10 }
  match f with
  | .cmd => idle
  | .regHigh => opened (.ofOpw opw)
  | .regLow => { opened (.ofOpw opw) with addrHi := some 0x08#8 }
  | .wordCount => addressed (.ofOpw opw)
  | .dataRead => counting .read none
  | .dataWrite => counting .write (some .first)

/-- `s` with the decode word `w` placed for the next step: its event is delivered next and, where `s` with that event
does not select the instruction of `w` already, the registers stand as the word's state has them. Log entry 7. -/
def State.placeWord (w : DecodeWord) (s : State) : State :=
  let here := s.present (portOfWord w)
  match decode w with
  | .error _ => here
  | .ok i =>
    if here.selects i then here
    else
      match FsmState.ofCode? w.state with
      | none => here
      | some f => (s.placedIn f w.opw w.last).present (portOfWord w)

end Sys2Proof.Machine
end

