-- ==== Sys2Proof/Machine/Step.lean ====
section
/-! DEFINITION. One step: one event, one rule (spec 00_scope R3, R10, 42_frame_fsm R120). -/

namespace Sys2Proof.Machine

/-- One step: form the decode word, select the row, run its rule, move past the event (42_frame_fsm R120, R124). -/
def step (s : State) : Host.Outcome State Fault Refusal :=
  match fetchWord s with
  | .error f => .fault f
  | .ok w =>
    match decode w with
    | .error _ => .refused .noRow
    | .ok i => pastEvent (exec i s)

/-- `s` with the decode word in the low `nbits` bits of `w` placed for the next step. The block does not fetch at a
program counter: see `State.placeWord` and log entry 7. -/
def State.withFetchWord (s : State) (nbits w : Nat) : State := s.placeWord (tableWord nbits w)

end Sys2Proof.Machine
end

