-- ==== Sys2Proof/Machine/Flags.lean ====
section
/-! DEFINITION. The block has no status flags (spec 10_state R35); its only single-bit indicators are the output
qualifiers `rec_valid`, `rec_addr_valid` and `rec_id_valid`. This file is the port view of them and of the record
(10_state R36, 30_encoding R83, R84). -/

namespace Sys2Proof.Machine

/-- The output ports (10_state R36). A port that carries any value (30_encoding R83; 93_implementation_defined U9, U10)
is `none` here: nothing is said of its value. Log entry 4. -/
structure OutPorts where
  recValid : Bool
  recKind : Option (BitVec 2)
  recAddrValid : Option Bool
  recAddr : Option RegAddr
  recAddrKey : Option Text
  /-- `rec_name`: the port's own value is an optional Mnemonic. -/
  recName : Option (Option Mnemonic)
  recPayload : Option (List Byte)
  recPayloadHex : Option Text
  recMsg : Option Text
  recTStart : Option TS
  recTEnd : Option TS
  recIdValid : Option Bool
  recId : Option Ident
  /-- `prev_name`: presented in every step (10_state R32). -/
  prevName : Option Mnemonic
deriving DecidableEq, Repr

/-- `rec_valid`: the step emitted a record (10_state R36). -/
def State.recValid (s : State) : Bool := s.out.isSome

/-- `rec_addr_valid = (addr ≠ none)` (30_encoding R84). -/
def Record.addrValid (r : Record) : Bool := r.addr.isSome

/-- `rec_id_valid = (id ≠ none)` (30_encoding R84). -/
def Record.idValid (r : Record) : Bool := r.id.isSome

/-- The output ports in a state (10_state R36). -/
def State.outPorts (s : State) : OutPorts where
  recValid := s.recValid
  recKind := s.out.map (·.kind.code)
  recAddrValid := s.out.map (·.addrValid)
  recAddr := s.out.bind (·.addr)
  recAddrKey := s.out.bind (·.key)
  recName := s.out.map (·.name)
  recPayload := s.out.map (·.payload)
  recPayloadHex := s.out.map (·.payloadHex)
  recMsg := s.out.map (·.msg)
  recTStart := s.out.map (·.tStart)
  recTEnd := s.out.map (·.tEnd)
  recIdValid := s.out.map (·.idValid)
  recId := s.out.bind (·.id)
  prevName := s.prevName

end Sys2Proof.Machine
end

