-- ==== Sys2Proof/Machine/Run.lean ====
section
/-! DEFINITION. A run over a finite event sequence (spec 00_scope R10, 70_reset_and_hazards R198). -/

namespace Sys2Proof.Machine

/-- `step(s, ev)` of 00_scope R10: the next event is `p`. The record of the step, if any, stands in the next state's
`out`. -/
def react (p : PortSample) (s : State) : Result := step (s.present p)

/-- The left fold of `step` over a finite event sequence (00_scope R10). The emitted records, in order, are what it adds
to `taken`. -/
def runEvents : List PortSample → State → Result
  | [], s => .next s
  | p :: ps, s =>
    match react p s with
    | .next t => runEvents ps t
    | .fault f => .fault f
    | .refused f => .refused f

end Sys2Proof.Machine
end

