-- ==== Sys2Proof/Machine/Stream.lean ====
section
/-! DEFINITION. Input events and their port encoding (spec 30_encoding R77, R78), and the notation for streams,
pseudo-transactions and records (30_encoding R86, R87; the listing codes of 95_test_vectors). -/

namespace Sys2Proof.Machine

/-! ### Events and ports -/

/-- The input events (30_encoding R77), with the port-idle value NONE of R78. -/
inductive Event where
  | none
  | sessionStart (timestamp : TS)
  | byteTransfer (startTime endTime : TS) (line : Line) (byteValue : Byte)
  | sessionEnd (timestamp : TS)
deriving DecidableEq, Repr

/-- The event on the input ports; a field its kind does not use is left at the idle port's value (30_encoding R78). -/
def Event.toPort : Event → PortSample
  | .none => .idle
  | .sessionStart t => { PortSample.idle with kind := .sessionStart, t0 := t }
  | .byteTransfer a b l v => { kind := .byteTransfer, t0 := a, t1 := b, line := l, byte := v }
  | .sessionEnd t => { PortSample.idle with kind := .sessionEnd, t0 := t }

/-- The event that a sample of the input ports stands for (30_encoding R78). -/
def PortSample.toEvent (p : PortSample) : Event :=
  match p.kind with
  | .none => .none
  | .sessionStart => .sessionStart p.t0
  | .byteTransfer => .byteTransfer p.t0 p.t1 p.line p.byte
  | .sessionEnd => .sessionEnd p.t0

/-! ### Streams -/

/-- One item of a stream written without times: `S`, `E` or `B hh` with its line (30_encoding R86). -/
inductive Item where
  | s
  | e
  | b (byteValue : Byte) (line : Line)
deriving DecidableEq, Repr

/-- The default times: byte `k` has start `10k` and end `10k + 8`; a session event takes the time of the next byte slot
without consuming it (30_encoding R86). The notation writes times as numbers: `time n` is the timestamp it means by `n`. -/
def schedule (time : Nat → TS) (k : Nat) : List Item → List Event
  | [] => []
  | .s :: rest => .sessionStart (time (10 * k)) :: schedule time k rest
  | .e :: rest => .sessionEnd (time (10 * k)) :: schedule time k rest
  | .b v l :: rest => .byteTransfer (time (10 * k)) (time (10 * k + 8)) l v :: schedule time (k + 1) rest

/-- A stream without times, as samples of the input ports from byte slot 0 on (30_encoding R86). -/
def stream (time : Nat → TS) (items : List Item) : List PortSample := (schedule time 0 items).map Event.toPort

/-- Bytes on the outbound line, the line meant when none is written (30_encoding R86). -/
def bytes (vs : List Byte) : List Item := vs.map fun v => .b v .outbound

/-- The item of a listing code `ev_kind << 8 | ev_byte`, the byte being 0 for session events (95_test_vectors,
"Listing code"). -/
def Item.ofListing? (code : Nat) : Option Item :=
  if code = 0x100 then some .s
  else if code = 0x300 then some .e
  else if 0x200 ≤ code ∧ code ≤ 0x2FF then some (.b (BitVec.ofNat 8 code) .outbound)
  else none

/-- `WRITE_TXN aaaa, [d0 …]`: the data count is a multiple of 4 and at most 1020 (30_encoding R87). -/
def writeTxn? (addr : RegAddr) (data : List Byte) : Option (List Item) :=
  if data.length % 4 = 0 ∧ data.length ≤ 1020 then
    some (bytes (0x61#8 :: addr.extractLsb' 8 8 :: addr.extractLsb' 0 8 :: BitVec.ofNat 8 (data.length / 4) :: data))
  else none

/-- `READ_TXN aaaa, N, [d0 …]` with `4N` bytes in the data positions (30_encoding R87). -/
def readTxn? (addr : RegAddr) (n : Byte) (data : List Byte) : Option (List Item) :=
  if data.length = 4 * n.toNat then
    some (bytes (0x41#8 :: addr.extractLsb' 8 8 :: addr.extractLsb' 0 8 :: n :: data))
  else none

/-- `BAD hh`, an illegal opcode where one is intended (30_encoding R87). -/
def bad? (v : Byte) : Option (List Item) :=
  if v = 0x41#8 ∨ v = 0x61#8 then none else some (bytes [v])

/-! ### Records -/

/-- `CE{hex, t0-t1}` (30_encoding R82, R86). -/
def Record.ce (b : Byte) (t0 t1 : TS) : Record :=
  { kind := .commandError, addr := none, key := none, name := none
    payload := [b], payloadHex := hexs [b], msg := unexpectedData, tStart := t0, tEnd := t1, id := none }

/-- `RD{key, name, hex, t0-t1}` (30_encoding R82, R86). -/
def Record.rd (hi lo : Byte) (name : Mnemonic) (payload : List Byte) (t0 t1 : TS) : Record :=
  { kind := .readResult, addr := some (hi ++ lo), key := some (hex4 hi lo), name := some name
    payload := payload, payloadHex := hexs payload, msg := [], tStart := t0, tEnd := t1, id := none }

/-- `WR{key, name, hex, t0-t1, id}` (30_encoding R82, R86). -/
def Record.wr (hi lo : Byte) (name : Mnemonic) (payload : List Byte) (t0 t1 : TS) (id : Option Ident) : Record :=
  { kind := .writeResult, addr := some (hi ++ lo), key := some (hex4 hi lo), name := some name
    payload := payload, payloadHex := hexs payload, msg := [], tStart := t0, tEnd := t1, id := id }

end Sys2Proof.Machine
end

