-- ==== Sys2Proof/Safety.lean ====
section
/-! DEFINITION. What counts as a good state and a safe step, in the terms claims use: the invariants of spec 10_state R37,
the error causes of 60_exceptions R170, and the comparisons of runs that the spec's "read by no rule" sentences need. -/

namespace Sys2Proof.Machine

/-! ### Invariants -/

/-- The FSM collects payload bytes (10_state R21). -/
def State.collecting (s : State) : Bool :=
  match s.st with
  | .cmd => false
  | .regHigh => false
  | .regLow => false
  | .wordCount => false
  | .dataRead => true
  | .dataWrite => true

/-- The FSM has received the whole address (10_state R37 item 3). -/
def State.hasAddress (s : State) : Bool :=
  match s.st with
  | .cmd => false
  | .regHigh => false
  | .regLow => false
  | .wordCount => true
  | .dataRead => true
  | .dataWrite => true

/-- Every Transaction register is unwritten and the buffer is empty (10_state R37 item 8, 42_frame_fsm R140). -/
structure State.Untouched (s : State) : Prop where
  op : s.op = none
  addrHi : s.addrHi = none
  addrLo : s.addrLo = none
  name : s.name = none
  wc : s.wc = none
  rem : s.rem = none
  tOpStart : s.tOpStart = none
  tHdrEnd : s.tHdrEnd = none
  tWrStart : s.tWrStart = none
  pbuf : s.pbuf = []

/-- The invariants of every reachable state, item by item (10_state R37). Item 1 is the type of `st`. -/
structure State.Inv (s : State) : Prop where
  /-- Item 2, an open Transaction has its opcode and its start time. -/
  opened : s.st ≠ .cmd → s.op.isSome ∧ s.tOpStart.isSome
  /-- Item 2, no payload before the payload states. -/
  noPayload : s.collecting = false → s.plen = 0
  /-- Item 3. -/
  addressed : s.hasAddress → s.addrHi.isSome ∧ s.addrLo.isSome ∧ s.name.isSome
  /-- Item 4. -/
  counted : s.collecting → ∃ (r : RemCount) (n : Byte), s.rem = some r ∧ s.wc = some n ∧
    1 ≤ r.toNat ∧ r.toNat ≤ 1020 ∧ s.plen + r.toNat = 4 * n.toNat ∧ 1 ≤ n.toNat
  /-- Item 5. -/
  reading : s.st = .dataRead → s.op = some .read
  /-- Item 5. -/
  writing : s.st = .dataWrite → s.op = some .write
  /-- Item 6. -/
  pinned : s.st = .dataWrite → 1 ≤ s.plen → s.tWrStart.isSome
  /-- Item 7. -/
  bounded : Memory.wf s.pbuf
  /-- Item 8. -/
  closed : s.st = .cmd → s.Untouched

/-- R37 with the written high byte in REG_LOW, which its closing "Consequence" needs for rule R129's read. DEDUCED from
42_frame_fsm R128, log entry 9. -/
structure State.Live (s : State) : Prop extends s.Inv where
  highByte : s.st = .regLow → s.addrHi.isSome

/-- In the states that have received the whole address, `name` holds what the directory answers for the address key
(10_state R25, 42_frame_fsm R129). -/
def State.Named (s : State) : Prop :=
  s.hasAddress → ∃ hi lo, s.addrHi = some hi ∧ s.addrLo = some lo ∧
    s.name = some (regDirLookup (hex4 hi lo))

/-! ### Safe steps and runs -/

/-- The step goes on: no fault and no refusal (42_frame_fsm R120, 60_exceptions R171). -/
def SafeStep (s : State) : Prop := ∃ t, step s = .next t

/-- The run over these events goes on to its end (00_scope R10, 70_reset_and_hazards R198). -/
def SafeRun (ps : List PortSample) (s : State) : Prop := ∃ t, runEvents ps s = .next t

/-- The samples are byte-transfers of these bytes, at any times and on any line (30_encoding R70). -/
def delivers (ps : List PortSample) (bs : List Byte) : Prop :=
  (∀ p ∈ ps, p.kind = .byteTransfer) ∧ ps.map PortSample.byte = bs

/-- What a completed Transaction leaves: its record is out and taken, `prev_name` is the record's name, every
Transaction register is unwritten, the buffer is empty and the FSM is in CMD (42_frame_fsm R139, R140). -/
def State.afterRecord (r : Record) (name : Mnemonic) (s : State) : State :=
  { st := .cmd
    op := none, addrHi := none, addrLo := none, name := none, wc := none, rem := none
    pbuf := []
    tOpStart := none, tHdrEnd := none, tWrStart := none
    prevName := some name
    out := some r
    inp := s.inp
    taken := s.taken ++ [r] }

/-! ### Error causes -/

/-- The error causes, names for the reader only (60_exceptions R170). -/
inductive Cause where
  /-- EC0, Unknown-Register: not an error. -/
  | unknownRegister
  /-- EC1, Unexpected-Opcode. -/
  | unexpectedOpcode
  /-- EC2, Malformed-Payload-For-ID-Extraction. -/
  | malformedPayload
deriving DecidableEq, Repr

/-- EC0: the record's name is "unknown" (60_exceptions R170, 40_register_directory R104). -/
def Record.isEC0 (r : Record) : Bool := r.name == some Config.unknownName

/-- EC1: a Command-Error (60_exceptions R170). -/
def Record.isEC1 (r : Record) : Bool := r.kind == .commandError

/-- EC2: a Write-Result at the transmit marker without an identifier (60_exceptions R170). -/
def Record.isEC2 (r : Record) : Bool :=
  r.kind == .writeResult && r.addr.any (fun a => a.extractLsb' 8 8 == 0x84#8) && r.id.isNone

/-- The causes a record reflects (60_exceptions R170, R172). -/
def Record.causes (r : Record) : List Cause :=
  (if r.isEC0 then [.unknownRegister] else []) ++ (if r.isEC1 then [.unexpectedOpcode] else []) ++
    (if r.isEC2 then [.malformedPayload] else [])

/-! ### Comparing steps -/

/-- A result with its next state mapped. -/
def mapResult (f : State → State) : Result → Result
  | .next s => .next (f s)
  | .fault e => .fault e
  | .refused e => .refused e

/-- A sample with its timestamps mapped. -/
def PortSample.mapTime (f : TS → TS) (p : PortSample) : PortSample := { p with t0 := f p.t0, t1 := f p.t1 }

/-- A record with its timestamps mapped. -/
def Record.mapTime (f : TS → TS) (r : Record) : Record := { r with tStart := f r.tStart, tEnd := f r.tEnd }

/-- A state with every timestamp in it mapped: registers, ports, coming events and records (00_scope R6, `TS`). -/
def State.mapTime (f : TS → TS) (s : State) : State :=
  { s with
    tOpStart := s.tOpStart.map f, tHdrEnd := s.tHdrEnd.map f, tWrStart := s.tWrStart.map f
    out := s.out.map (·.mapTime f), inp := s.inp.map (·.mapTime f), taken := s.taken.map (·.mapTime f) }

/-- Two samples that agree on what rules may read: the kind and, for a byte-transfer, its byte and times (30_encoding R78,
R79; 92_eei_decisions D28: no rule reads a session event's timestamp). -/
def PortSample.sameToRules (p q : PortSample) : Prop :=
  p.kind = q.kind ∧ (p.kind = .byteTransfer → p.byte = q.byte ∧ p.t0 = q.t0 ∧ p.t1 = q.t1)

end Sys2Proof.Machine
end

