-- ==== Sys2Proof/Certificates/Slice0/Obligations.lean ====
section
/-! DEFINITION. The statements about the SPI frame reassembler, from the numbered rules of spec/. A statement of an
instruction's result is an equation `exec i s = .next t`: it says that the instruction completes, what it writes and,
every field of `t` being given, that it leaves everything else as it was. -/

open Sys2Proof Sys2Proof.Machine

/-! ### Reset and the step -/

/-- The power-on state (70_reset_and_hazards R190): `st = CMD`, `pbuf` empty with `plen = 0`, `prev_name = none`, and
every Transaction register unwritten. -/
def Obligations.PowerOnStateIsIdle : Prop :=
  State.reset.st = .cmd ∧ State.reset.pbuf = [] ∧ State.reset.plen = 0 ∧ State.reset.prevName = none ∧
  State.reset.op = none ∧ State.reset.addrHi = none ∧ State.reset.addrLo = none ∧ State.reset.name = none ∧
  State.reset.wc = none ∧ State.reset.rem = none ∧ State.reset.tOpStart = none ∧ State.reset.tHdrEnd = none ∧
  State.reset.tWrStart = none

/-- When the decode word of a state decodes to an instruction, `step` is that instruction's `exec`, with the host's
stream moved past the one event (00_scope R10, 42_frame_fsm R120, R124). -/
def Obligations.StepRunsTheDecodedInstruction : Prop :=
  ∀ (s : State) (w : DecodeWord) (i : Instr), fetchWord s = .ok w → decode w = .ok i →
    step s =
      match exec i s with
      | .next t => .next { t with inp := t.inp.tail }
      | .fault f => .fault f
      | .refused r => .refused r

/-! ### Each instruction: when it is selected, and its whole effect -/

/-- EV_NONE (42_frame_fsm R121): selected with no event; no register changes and no record. -/
def Obligations.EvNoneChangesNothing : Prop :=
  (∀ s : State, s.port.kind = .none → s.selects .evNone = true) ∧
  ∀ s : State, exec .evNone s = .next { s with out := none }

/-- EV_SESSION_START (42_frame_fsm R122): selected in every state; the Transaction is discarded, the FSM returns to CMD,
`prev_name` is not changed and no record is emitted. -/
def Obligations.SessionStartDiscardsTheTransaction : Prop :=
  (∀ s : State, s.port.kind = .sessionStart → s.selects .evSessionStart = true) ∧
  ∀ s : State, exec .evSessionStart s = .next
    { s with
      st := .cmd
      op := none, addrHi := none, addrLo := none, name := none, wc := none, rem := none
      tOpStart := none, tHdrEnd := none, tWrStart := none
      pbuf := []
      out := none }

/-- EV_SESSION_END (42_frame_fsm R123): selected in every state; no register changes and no record. -/
def Obligations.SessionEndChangesNothing : Prop :=
  (∀ s : State, s.port.kind = .sessionEnd → s.selects .evSessionEnd = true) ∧
  ∀ s : State, exec .evSessionEnd s = .next { s with out := none }

/-- CMD_WRITE (42_frame_fsm R125): the byte 0x61 in CMD opens a WRITE. -/
def Obligations.WriteOpcodeOpensATransaction : Prop :=
  (∀ s : State, s.port.kind = .byteTransfer → s.st = .cmd → s.port.byte = 0x61#8 → s.selects .cmdWrite = true) ∧
  ∀ s : State, exec .cmdWrite s = .next
    { s with op := some .write, tOpStart := some s.port.t0, st := .regHigh, out := none }

/-- CMD_READ (42_frame_fsm R126): the byte 0x41 in CMD opens a READ. -/
def Obligations.ReadOpcodeOpensATransaction : Prop :=
  (∀ s : State, s.port.kind = .byteTransfer → s.st = .cmd → s.port.byte = 0x41#8 → s.selects .cmdRead = true) ∧
  ∀ s : State, exec .cmdRead s = .next
    { s with op := some .read, tOpStart := some s.port.t0, st := .regHigh, out := none }

/-- CMD_BADOP (42_frame_fsm R127): any other byte in CMD emits one Command-Error with that byte and its times; no
register is written and the FSM stays in CMD. -/
def Obligations.IllegalOpcodeEmitsOneCommandError : Prop :=
  (∀ s : State, s.port.kind = .byteTransfer → s.st = .cmd → s.port.byte ≠ 0x41#8 → s.port.byte ≠ 0x61#8 →
    s.selects (.cmdBadop s.port.byte) = true) ∧
  ∀ (s : State) (b : Byte), ∃ r : Record,
    exec (.cmdBadop b) s = .next { s with out := some r, taken := s.taken ++ [r] } ∧
    r.kind = .commandError ∧ r.addr = none ∧ r.key = none ∧ r.name = none ∧ r.payload = [b] ∧
    r.payloadHex = hex2 b ∧ r.msg = "unexpected data".toList ∧ r.tStart = s.port.t0 ∧ r.tEnd = s.port.t1 ∧ r.id = none

/-- REG_HIGH_BYTE (42_frame_fsm R128): every byte value in REG_HIGH is the address high byte. -/
def Obligations.RegHighByteLatchesTheAddressHighByte : Prop :=
  (∀ s : State, s.port.kind = .byteTransfer → s.st = .regHigh → s.selects (.regHighByte s.port.byte) = true) ∧
  ∀ (s : State) (b : Byte), exec (.regHighByte b) s = .next { s with addrHi := some b, st := .regLow, out := none }

/-- REG_LOW_BYTE (42_frame_fsm R129): every byte value in REG_LOW is the address low byte, and the name is looked up. -/
def Obligations.RegLowByteLooksUpTheName : Prop :=
  (∀ s : State, s.port.kind = .byteTransfer → s.st = .regLow → s.selects (.regLowByte s.port.byte) = true) ∧
  ∀ (s : State) (b hi : Byte), s.addrHi = some hi →
    exec (.regLowByte b) s = .next
      { s with addrLo := some b, name := some (regDirLookup (hex4 hi b)), st := .wordCount, out := none }

/-- WC_NONZERO (42_frame_fsm R130, 30_encoding R75): a word count N of 1 or more sets `rem` to 4N and the opcode selects
the payload state. -/
def Obligations.NonzeroWordCountSetsTheCounter : Prop :=
  (∀ (s : State) (o : Opcode), s.port.kind = .byteTransfer → s.st = .wordCount → s.op = some o →
    s.port.byte ≠ 0x00#8 → s.selects (.wcNonzero s.port.byte) = true) ∧
  ∀ (s : State) (b : Byte) (o : Opcode), s.op = some o → ∃ r : RemCount, r.toNat = 4 * b.toNat ∧
    exec (.wcNonzero b) s = .next
      { s with
        wc := some b, rem := some r, tHdrEnd := some s.port.t1
        st := if o = .read then .dataRead else .dataWrite
        out := none }

/-- WC_ZERO_READ (42_frame_fsm R131): a READ with word count 0 completes at that byte. -/
def Obligations.ZeroWordCountCompletesARead : Prop :=
  (∀ s : State, s.port.kind = .byteTransfer → s.st = .wordCount → s.op = some .read → s.port.byte = 0x00#8 →
    s.selects .wcZeroRead = true) ∧
  ∀ (s : State) (hi lo : Byte) (name : Mnemonic) (ts : TS), s.addrHi = some hi → s.addrLo = some lo →
    s.name = some name → s.tOpStart = some ts →
    exec .wcZeroRead s = .next (s.afterRecord (.rd hi lo name s.pbuf ts s.port.t1) name)

/-- WC_ZERO_WRITE (42_frame_fsm R132): a WRITE with word count 0 completes at that byte, with the opcode byte's start
time; its identifier is the extractor's answer on the buffer (R137). -/
def Obligations.ZeroWordCountCompletesAWrite : Prop :=
  (∀ s : State, s.port.kind = .byteTransfer → s.st = .wordCount → s.op = some .write → s.port.byte = 0x00#8 →
    s.selects .wcZeroWrite = true) ∧
  ∀ (s : State) (hi lo : Byte) (name : Mnemonic) (ts : TS), s.addrHi = some hi → s.addrLo = some lo →
    s.name = some name → s.tOpStart = some ts →
    exec .wcZeroWrite s = .next (s.afterRecord (.wr hi lo name s.pbuf ts s.port.t1 (idField hi s.pbuf)) name)

/-- DATA_READ_MORE (42_frame_fsm R133): the byte is appended and a `rem` of 1 or more goes down by one. R133 states no
result at `rem = 0`, which no reachable state holds: that the rule completes there, with some value left free, is the
model's choice (log entry 3, DESIGN CHOICE). -/
def Obligations.ReadPayloadByteIsCounted : Prop :=
  (∀ (s : State) (r : RemCount), s.port.kind = .byteTransfer → s.st = .dataRead → s.rem = some r → 2 ≤ r.toNat →
    s.selects (.dataReadMore s.port.byte) = true) ∧
  ∀ (s : State) (b : Byte) (r : RemCount), s.rem = some r → ∃ v : RemCount,
    exec (.dataReadMore b) s = .next { s with pbuf := s.pbuf ++ [b], rem := some v, out := none } ∧
    (1 ≤ r.toNat → v.toNat = r.toNat - 1)

/-- DATA_READ_LAST (42_frame_fsm R134): the last payload byte of a READ completes it. -/
def Obligations.LastReadPayloadByteCompletes : Prop :=
  (∀ s : State, s.port.kind = .byteTransfer → s.st = .dataRead → s.rem = some 1#10 →
    s.selects (.dataReadLast s.port.byte) = true) ∧
  ∀ (s : State) (b hi lo : Byte) (name : Mnemonic) (ts : TS), s.addrHi = some hi → s.addrLo = some lo →
    s.name = some name → s.tOpStart = some ts →
    exec (.dataReadLast b) s = .next (s.afterRecord (.rd hi lo name (s.pbuf ++ [b]) ts s.port.t1) name)

/-- DATA_WRITE_MORE (42_frame_fsm R135): the byte is appended, a `rem` of 1 or more goes down by one, and the first
payload byte pins `t_wr_start`. R135 states no result at `rem = 0`, which no reachable state holds: that the rule
completes there, with some value left free, is the model's choice (log entry 3, DESIGN CHOICE). -/
def Obligations.WritePayloadByteIsCounted : Prop :=
  (∀ (s : State) (r : RemCount), s.port.kind = .byteTransfer → s.st = .dataWrite → s.rem = some r → 2 ≤ r.toNat →
    s.selects (.dataWriteMore s.port.byte) = true) ∧
  ∀ (s : State) (b : Byte) (r : RemCount), s.rem = some r → ∃ v : RemCount,
    exec (.dataWriteMore b) s = .next
      { s with
        tWrStart := if s.plen = 0 then some s.port.t0 else s.tWrStart
        pbuf := s.pbuf ++ [b], rem := some v, out := none } ∧
    (1 ≤ r.toNat → v.toNat = r.toNat - 1)

/-- DATA_WRITE_LAST (42_frame_fsm R136): the last payload byte of a WRITE completes it, with the first payload byte's
start time and the identifier of R137. -/
def Obligations.LastWritePayloadByteCompletes : Prop :=
  (∀ s : State, s.port.kind = .byteTransfer → s.st = .dataWrite → s.rem = some 1#10 →
    s.selects (.dataWriteLast s.port.byte) = true) ∧
  ∀ (s : State) (b hi lo : Byte) (name : Mnemonic) (ts : TS), s.addrHi = some hi → s.addrLo = some lo →
    s.name = some name → (if s.plen = 0 then some s.port.t0 else s.tWrStart) = some ts →
    exec (.dataWriteLast b) s = .next
      (s.afterRecord (.wr hi lo name (s.pbuf ++ [b]) ts s.port.t1 (idField hi (s.pbuf ++ [b]))) name)

/-- A rule that reads an unwritten Transaction register faults by that register's name (10_state, opening paragraph;
93_implementation_defined U5). Which one is named when several are unwritten is the model's choice (log entry 6): each
clause is about the register its rule reads first. -/
def Obligations.UnwrittenRegisterReadFaults : Prop :=
  ∀ (s : State) (b : Byte),
    (s.addrHi = none → exec (.regLowByte b) s = .fault (.readUnwritten .addrHi)) ∧
    (s.op = none → exec (.wcNonzero b) s = .fault (.readUnwritten .op)) ∧
    (s.rem = none → exec (.dataReadMore b) s = .fault (.readUnwritten .rem) ∧
      exec (.dataWriteMore b) s = .fault (.readUnwritten .rem)) ∧
    (s.tOpStart = none → exec .wcZeroRead s = .fault (.readUnwritten .tOpStart) ∧
      exec .wcZeroWrite s = .fault (.readUnwritten .tOpStart) ∧
      exec (.dataReadLast b) s = .fault (.readUnwritten .tOpStart)) ∧
    (s.tWrStart = none → s.plen ≠ 0 → exec (.dataWriteLast b) s = .fault (.readUnwritten .tWrStart))

/-! ### Encoding -/

/-- Decode words written out bit by bit from 30_encoding R80, with the rows 95_test_vectors section 2.5 gives them. -/
def Obligations.SpecDecodeWordsDecodeToTheirRows : Prop :=
  decode 0b01_000_0_0_00000000#15 = .ok .evSessionStart ∧
  decode 0b11_101_0_0_00000000#15 = .ok .evSessionEnd ∧
  decode 0b00_010_0_0_00000000#15 = .ok .evNone ∧
  decode 0b10_000_0_0_01100001#15 = .ok .cmdWrite ∧
  decode 0b10_000_0_0_11111111#15 = .ok (.cmdBadop 0xFF#8) ∧
  decode 0b10_001_1_0_00001000#15 = .ok (.regHighByte 0x08#8) ∧
  decode 0b10_011_1_0_00000000#15 = .ok .wcZeroWrite ∧
  decode 0b10_011_1_0_00000001#15 = .ok (.wcNonzero 0x01#8) ∧
  decode 0b10_101_1_1_01000100#15 = .ok (.dataWriteLast 0x44#8) ∧
  decode 0b10_100_0_0_11011110#15 = .ok (.dataReadMore 0xDE#8)

/-- Decoding the encoded word of a well-formed instruction gives the instruction back, whatever its operand. -/
def Obligations.DecodeInvertsEncode : Prop :=
  ∀ i : Instr, i.WellFormed → decode (encode i) = .ok i

/-- What the decoder answers for ANY word: a well-formed instruction, built from the word's own byte by a row the word
matches, and no row of a smaller priority number matches (30_encoding R81). -/
def Obligations.DecodedWordMatchesItsRow : Prop :=
  ∀ (w : DecodeWord) (i : Instr), decode w = .ok i →
    i.WellFormed ∧ ∃ r ∈ decodeMap, r.hits w = true ∧ r.build w.byte = i ∧
      ∀ q ∈ decodeMap, q.hits w = true → r.prio ≤ q.prio

/-- No two rows of one priority match the same decode word (30_encoding R81). -/
def Obligations.RowsOfOnePriorityAreDisjoint : Prop :=
  ∀ q ∈ decodeMap, ∀ r ∈ decodeMap, ∀ w : DecodeWord,
    q.prio = r.prio → q.hits w = true → r.hits w = true → q.mnemonic = r.mnemonic

/-- The decoder refuses exactly the BYTE_TRANSFER words whose state code names no state (30_encoding R81, R85). -/
def Obligations.OnlyWordsWithoutAStateAreRefused : Prop :=
  ∀ w : DecodeWord, decode w = .error (.noStateOfCode w.state) ↔
    w.kind = 0b10#2 ∧ (w.state = 0b110#3 ∨ w.state = 0b111#3)

/-- In every state, reachable or not, the formed decode word matches a row, so no step refuses (30_encoding R81, R85). -/
def Obligations.NoStepRefuses : Prop :=
  ∀ (s : State) (r : Refusal), step s ≠ .refused r

/-- The codes of the fields and the event at the ports: `ev_kind` and `ev_line` (30_encoding R78, R79), the state codes
(10_state R21), and every event read back from the ports it is encoded on (30_encoding R77, R78). -/
def Obligations.PortCodesAreTheSpecs : Prop :=
  (EvKind.none.code = 0b00#2 ∧ EvKind.sessionStart.code = 0b01#2 ∧ EvKind.byteTransfer.code = 0b10#2 ∧
    EvKind.sessionEnd.code = 0b11#2) ∧
  (Line.outbound.code = 0#1 ∧ Line.inbound.code = 1#1) ∧
  (FsmState.cmd.code = 0b000#3 ∧ FsmState.regHigh.code = 0b001#3 ∧ FsmState.regLow.code = 0b010#3 ∧
    FsmState.wordCount.code = 0b011#3 ∧ FsmState.dataRead.code = 0b100#3 ∧ FsmState.dataWrite.code = 0b101#3) ∧
  ∀ e : Event, e.toPort.toEvent = e

/-! ### Hexadecimal text -/

/-- `hex2` takes its two digits from HEXU, high half first; `hex4` and `hexs` concatenate them (00_scope R9). -/
def Obligations.HexTextIsUpperCaseAndPadded : Prop :=
  (∀ b : Byte, hex2 b =
    ["0123456789ABCDEF".toList.getD (b.toNat / 16) '0', "0123456789ABCDEF".toList.getD (b.toNat % 16) '0']) ∧
  (∀ hi lo : Byte, hex4 hi lo = hex2 hi ++ hex2 lo) ∧
  (∀ bs : List Byte, hexs bs = bs.flatMap hex2 ∧ (hexs bs).length = 2 * bs.length)

/-- `hexs` loses nothing: two payloads with the same hex string are the same payload (30_encoding R84). -/
def Obligations.PayloadHexIsInjective : Prop :=
  ∀ p q : List Byte, hexs p = hexs q → p = q

/-! ### Register Directory -/

/-- The one entry the source gives is in the ROM, in both forms of the lookup (40_register_directory R103). -/
def Obligations.KnownRegisterIsInTheDirectory : Prop :=
  romRead 0x0840#16 = some "TIMESTAMP_PRESCALER".toList ∧
  regDirLookup "0840".toList = "TIMESTAMP_PRESCALER".toList

/-- The string form and the hardware form of the lookup agree at every address (40_register_directory R105). -/
def Obligations.DirectoryFormsAgree : Prop :=
  ∀ hi lo : Byte, regDirLookup (hex4 hi lo) =
    match romRead (hi ++ lo) with
    | some m => m
    | none => "unknown".toList

/-- Keys are compared exactly: a string that is not the upper-case key of an address finds nothing, so the lower-case
form of a known key does not match (40_register_directory R101). -/
def Obligations.DirectoryKeysCompareExactly : Prop :=
  ∀ key : Text, (∀ hi lo : Byte, key ≠ hex4 hi lo) → regDirLookup key = "unknown".toList

/-- No entry's mnemonic is "unknown", so a looked-up name is "unknown" exactly when the ROM has no entry
(40_register_directory R104, R106). -/
def Obligations.UnknownMeansAbsent : Prop :=
  (∀ a : RegAddr, romRead a ≠ some "unknown".toList) ∧
  ∀ hi lo : Byte, regDirLookup (hex4 hi lo) = "unknown".toList ↔ romRead (hi ++ lo) = none

/-! ### Payload ID Extractor -/

/-- The extractor fails exactly on a string shorter than 8 characters or with a character that is no hex digit, anywhere
in it, in either letter case (41_id_extractor R111). -/
def Obligations.ExtractorRejectsExactlyInvalidInput : Prop :=
  (∀ p : Text, idExtract p = .invalidInput ↔ p.length < 8 ∨ ∃ c ∈ p, hexValue? c = none) ∧
  ∀ c : Char, (hexValue? c).isSome = true ↔
    ('0' ≤ c ∧ c ≤ '9') ∨ ('A' ≤ c ∧ c ≤ 'F') ∨ ('a' ≤ c ∧ c ≤ 'f')

/-- The identifier is the first eight digits read as a 32-bit word, the first digit most significant, masked to the low 29
bits and shifted right by 18, so bits 28:18; characters after the eighth do not affect it (41_id_extractor R112). -/
def Obligations.ExtractorMasksAndShiftsTheFirstWord : Prop :=
  (∀ (c0 c1 c2 c3 c4 c5 c6 c7 : Char) (d0 d1 d2 d3 d4 d5 d6 d7 : Nibble) (rest : Text),
    hexValue? c0 = some d0 → hexValue? c1 = some d1 → hexValue? c2 = some d2 → hexValue? c3 = some d3 →
    hexValue? c4 = some d4 → hexValue? c5 = some d5 → hexValue? c6 = some d6 → hexValue? c7 = some d7 →
    (∀ c ∈ rest, (hexValue? c).isSome = true) →
    idExtract (c0 :: c1 :: c2 :: c3 :: c4 :: c5 :: c6 :: c7 :: rest) =
      .ok ((((d0 ++ d1 ++ d2 ++ d3 ++ d4 ++ d5 ++ d6 ++ d7 : BitVec 32) &&& 0x1FFFFFFF#32) >>> 18).setWidth 11)) ∧
  ∀ v : BitVec 32, (v &&& 0x1FFFFFFF#32) >>> 18 = (v.extractLsb' 18 11).setWidth 32

/-- On the payload hex string of a buffer the extractor is its byte-level form (41_id_extractor R114). -/
def Obligations.ExtractorEqualsItsByteForm : Prop :=
  ∀ pbuf : List Byte, idExtract (hexs pbuf) = idExtractBytes pbuf

/-- A record carries an identifier only for a Write-Result at an address whose high byte is 0x84, whatever the ROM says;
there it is the extractor's, and an extraction that fails omits it (42_frame_fsm R137, 41_id_extractor R113, R115). -/
def Obligations.IdentifierOnlyAtTheTransmitMarker : Prop :=
  ∀ (kind : RecKind) (hi lo : Byte) (name : Mnemonic) (pbuf : List Byte) (ts te : TS),
    (resultRec kind hi lo name pbuf ts te).id =
      if kind = .writeResult ∧ hi = 0x84#8 then
        (match idExtract (hexs pbuf) with
        | .ok i => some i
        | .invalidInput => none)
      else none

/-- At the marker the extraction fails on the empty payload and succeeds on every payload of 4 bytes or more
(41_id_extractor R116). -/
def Obligations.MarkerWriteHasIdIffPayload : Prop :=
  idField 0x84#8 [] = none ∧ ∀ pbuf : List Byte, 4 ≤ pbuf.length → (idField 0x84#8 pbuf).isSome = true

/-- A header-only WRITE at the marker reflects EC2, and EC0 as well exactly when the ROM lacks its address
(60_exceptions R172). -/
def Obligations.HeaderOnlyMarkerWriteReflectsItsCauses : Prop :=
  ∀ (lo : Byte) (ts te : TS),
    (resultRec .writeResult 0x84#8 lo (regDirLookup (hex4 0x84#8 lo)) [] ts te).causes =
      (if romRead (0x84#8 ++ lo) = none then [.unknownRegister] else []) ++ [.malformedPayload]

/-! ### Invariants and safety -/

/-- The power-on state meets the invariants (10_state R37, 70_reset_and_hazards R190), with the written high byte in REG_LOW
that `Live` adds, the model's inference (log entry 9). -/
def Obligations.PowerOnStateMeetsTheInvariants : Prop := State.reset.Live

/-- Every step that goes on keeps the eight invariants, from every state that meets them (10_state R37). -/
def Obligations.EveryStepKeepsTheInvariants : Prop :=
  ∀ s t : State, s.Inv → step s = .next t → t.Inv

/-- From a state that meets the invariants a step always goes on, to a state that meets them: no rule reads an unwritten
register and nothing aborts (10_state R37's consequence, 42_frame_fsm R142, 60_exceptions R171). `Live` adds to R37 the
written high byte in REG_LOW, the model's inference (log entry 9). -/
def Obligations.LiveStatesAlwaysStep : Prop :=
  ∀ s : State, s.Live → ∃ t : State, step s = .next t ∧ t.Live

/-- Whatever events the host delivers after power-on, the run goes on to its end and the state it reaches meets the
invariants (10_state R37, 00_scope R10). -/
def Obligations.EveryRunFromPowerOnMeetsTheInvariants : Prop :=
  ∀ ps : List PortSample, ∃ t : State, runEvents ps State.reset = .next t ∧ t.Inv

/-- Once the address is complete, `name` is what the directory answers for the address key, and every step keeps that
(10_state R25, 42_frame_fsm R129). -/
def Obligations.NameIsTheDirectorysAnswer : Prop :=
  State.reset.Named ∧ ∀ s t : State, s.Named → step s = .next t → t.Named

/-! ### The FSM as a whole -/

/-- The transition table (42_frame_fsm R144), row by row: the next state and the kind of record. The premise `Live` adds to
R37 the written high byte in REG_LOW, the model's inference (log entry 9). -/
def Obligations.TransitionsFollowTheTable : Prop :=
  ∀ s : State, s.Live → ∃ t : State, step s = .next t ∧
    match s.port.kind with
    | .none => t.st = s.st ∧ t.out = none
    | .sessionStart => t.st = .cmd ∧ t.out = none
    | .sessionEnd => t.st = s.st ∧ t.out = none
    | .byteTransfer =>
      match s.st with
      | .cmd =>
        if s.port.byte = 0x61#8 ∨ s.port.byte = 0x41#8 then t.st = .regHigh ∧ t.out = none
        else t.st = .cmd ∧ t.out.map (·.kind) = some .commandError
      | .regHigh => t.st = .regLow ∧ t.out = none
      | .regLow => t.st = .wordCount ∧ t.out = none
      | .wordCount =>
        if s.port.byte ≠ 0x00#8 then
          t.st = (if s.op = some .read then .dataRead else .dataWrite) ∧ t.out = none
        else
          t.st = .cmd ∧ t.out.map (·.payload) = some [] ∧
            t.out.map (·.kind) = some (if s.op = some .read then .readResult else .writeResult)
      | .dataRead =>
        if s.rem = some 1#10 then t.st = .cmd ∧ t.out.map (·.kind) = some .readResult
        else t.st = .dataRead ∧ t.out = none
      | .dataWrite =>
        if s.rem = some 1#10 then t.st = .cmd ∧ t.out.map (·.kind) = some .writeResult
        else t.st = .dataWrite ∧ t.out = none

/-- The output count (42_frame_fsm R141): one record under R127, R131, R132, R134 and R136, none under the other rules,
and the host has taken exactly the records that were output. -/
def Obligations.OutputCountFollowsTheRule : Prop :=
  ∀ (i : Instr) (s t : State), exec i s = .next t →
    t.taken = s.taken ++ t.out.toList ∧
    t.out.isSome =
      match i with
      | .cmdBadop _ => true
      | .wcZeroRead => true
      | .wcZeroWrite => true
      | .dataReadLast _ => true
      | .dataWriteLast _ => true
      | .evNone => false
      | .evSessionStart => false
      | .evSessionEnd => false
      | .cmdWrite => false
      | .cmdRead => false
      | .regHighByte _ => false
      | .regLowByte _ => false
      | .wcNonzero _ => false
      | .dataReadMore _ => false
      | .dataWriteMore _ => false

/-- `prev_name` becomes the name of each emitted Read-Result or Write-Result and changes at nothing else, and no rule
reads it: steps that differ in it only, differ in it only (42_frame_fsm R139). -/
def Obligations.PrevNameFollowsResultsAndIsNeverRead : Prop :=
  (∀ s t : State, step s = .next t →
    t.prevName =
      match t.out with
      | some r => if r.kind = .commandError then s.prevName else r.name
      | none => s.prevName) ∧
  ∀ (s : State) (p q : Option Mnemonic),
    mapResult (fun t => { t with prevName := q }) (step { s with prevName := p }) =
      mapResult (fun t => { t with prevName := q }) (step s)

/-- Every record that a step emits holds its payload's hex string, and has an address, a key and a name exactly when it is
a result (30_encoding R82, R84). -/
def Obligations.EmittedRecordsAreWellFormed : Prop :=
  ∀ (s t : State) (r : Record), step s = .next t → t.out = some r →
    r.payloadHex = hexs r.payload ∧
    (r.kind = .commandError → r.addr = none ∧ r.key = none ∧ r.name = none ∧ r.id = none ∧
      r.msg = "unexpected data".toList) ∧
    (r.kind ≠ .commandError → ∃ hi lo name, r.addr = some (hi ++ lo) ∧ r.key = some (hex4 hi lo) ∧
      r.name = some name ∧ r.msg = []) ∧
    (r.kind = .readResult → r.id = none)

/-- The output ports present the record of the step, with the codes of 30_encoding R83; with `rec_valid` 0 no other
record port means anything, so the port view gives none of them a value (10_state R36, 30_encoding R83, R84). That a port
which carries any value is `none` in the view is the model's choice (log entry 4). -/
def Obligations.OutputPortsPresentTheRecord : Prop :=
  ∀ s : State,
    s.outPorts.recValid = s.out.isSome ∧ s.outPorts.prevName = s.prevName ∧
    (∀ r, s.out = some r →
      s.outPorts.recKind = some
        (match r.kind with
        | .commandError => 0b01#2
        | .readResult => 0b10#2
        | .writeResult => 0b11#2) ∧
      s.outPorts.recAddrValid = some (decide (r.addr ≠ none)) ∧ s.outPorts.recAddr = r.addr ∧
      s.outPorts.recAddrKey = r.key ∧ s.outPorts.recName = some r.name ∧ s.outPorts.recPayload = some r.payload ∧
      s.outPorts.recPayloadHex = some r.payloadHex ∧ s.outPorts.recMsg = some r.msg ∧
      s.outPorts.recTStart = some r.tStart ∧ s.outPorts.recTEnd = some r.tEnd ∧
      s.outPorts.recIdValid = some (decide (r.id ≠ none)) ∧ s.outPorts.recId = r.id) ∧
    (s.out = none →
      s.outPorts.recKind = none ∧ s.outPorts.recAddrValid = none ∧ s.outPorts.recAddr = none ∧
      s.outPorts.recAddrKey = none ∧ s.outPorts.recName = none ∧ s.outPorts.recPayload = none ∧
      s.outPorts.recPayloadHex = none ∧ s.outPorts.recMsg = none ∧ s.outPorts.recTStart = none ∧
      s.outPorts.recTEnd = none ∧ s.outPorts.recIdValid = none ∧ s.outPorts.recId = none)

/-- After any record the FSM is in CMD, and each step consumes exactly one event: no byte is skipped and none is consumed
twice (42_frame_fsm R145). -/
def Obligations.EveryRecordLeavesTheFsmInCmd : Prop :=
  ∀ s t : State, step s = .next t → t.inp = s.inp.tail ∧ (t.out ≠ none → t.st = .cmd)

/-- With no event the state never changes, however many steps pass (42_frame_fsm R143): only the output port goes
quiet. -/
def Obligations.NothingHappensWithoutAnEvent : Prop :=
  ∀ (s : State) (k : Nat), s.inp = [] → Host.Core.run core (k + 1) s = .next { s with out := none }

/-- A run of illegal opcode bytes gives one Command-Error for each, in order, and leaves every register as it was
(42_frame_fsm R127, 30_encoding R73). -/
def Obligations.IllegalOpcodesGiveOneErrorEach : Prop :=
  ∀ (s : State) (ps : List PortSample), s.st = .cmd →
    (∀ p ∈ ps, p.kind = .byteTransfer ∧ p.byte ≠ 0x41#8 ∧ p.byte ≠ 0x61#8) →
    ∃ o : Option Record, runEvents ps s = .next
      { s with out := o, taken := s.taken ++ ps.map fun p => Record.ce p.byte p.t0 p.t1 }

/-! ### What rules do not read -/

/-- A step reads nothing of its event but the kind and, for a byte-transfer, the byte and its times: the line tag, a
session event's timestamp and the fields a kind does not use make no difference (30_encoding R78, R79; 42_frame_fsm
R124; 92_eei_decisions D28). -/
def Obligations.LineAndUnusedPortFieldsAreNotRead : Prop :=
  ∀ (p q : PortSample) (s : State), p.sameToRules q → react p s = react q s

/-- The block only copies timestamps: a step commutes with every change of the timestamps (00_scope R6, `TS`;
70_reset_and_hazards R195). So no result depends on a timestamp's value or order. `TS` is the open type of log entry 2. -/
def Obligations.TimestampsAreOnlyCopied : Prop :=
  ∀ (f : TS → TS) (s : State), step (s.mapTime f) = mapResult (State.mapTime f) (step s)

/-! ### Frames -/

/-- A WRITE frame delivered to a block in CMD with an empty buffer, at any times and on any lines, gives exactly one
Write-Result with its address, name and payload, the start time of its first payload byte (of its opcode byte when there
is none), the end time of its last byte, and the 11-bit identifier exactly at 0x84xx with a payload; the Transaction is
then discarded (30_encoding R70, R71, R75; 42_frame_fsm R125-R140; 41_id_extractor R114, R116). -/
def Obligations.WriteFrameIsReassembled : Prop :=
  ∀ (s : State) (hi lo n : Byte) (data : List Byte) (ps : List PortSample),
    s.st = .cmd → s.pbuf = [] → data.length = 4 * n.toNat →
    delivers ps (0x61#8 :: hi :: lo :: n :: data) →
    runEvents ps s = .next
      (s.afterRecord
        (.wr hi lo (regDirLookup (hex4 hi lo)) data
          (if n = 0x00#8 then (ps.getD 0 .idle).t0 else (ps.getD 4 .idle).t0)
          (ps.getD (3 + data.length) .idle).t1
          (if hi = 0x84#8 ∧ n ≠ 0x00#8 then
            some ((data.getD 0 0#8).extractLsb' 0 5 ++ (data.getD 1 0#8).extractLsb' 2 6 : BitVec 11)
          else none))
        (regDirLookup (hex4 hi lo)))

/-- A READ frame delivered to a block in CMD with an empty buffer gives exactly one Read-Result with its address, name
and payload, the start time of its opcode byte and the end time of its last byte, and no identifier, even at 0x84xx
(30_encoding R70, R71, R75; 42_frame_fsm R126-R140). -/
def Obligations.ReadFrameIsReassembled : Prop :=
  ∀ (s : State) (hi lo n : Byte) (data : List Byte) (ps : List PortSample),
    s.st = .cmd → s.pbuf = [] → data.length = 4 * n.toNat →
    delivers ps (0x41#8 :: hi :: lo :: n :: data) →
    runEvents ps s = .next
      (s.afterRecord
        (.rd hi lo (regDirLookup (hex4 hi lo)) data (ps.getD 0 .idle).t0 (ps.getD (3 + data.length) .idle).t1)
        (regDirLookup (hex4 hi lo)))

/-- No partial record: before its last byte a frame has emitted nothing and the FSM is not back in CMD, and a
session-start then drops what was received without a record (42_frame_fsm R146, 60_exceptions R173). -/
def Obligations.UnfinishedFrameEmitsNothing : Prop :=
  ∀ (s : State) (o hi lo n : Byte) (data : List Byte) (ps : List PortSample) (p : PortSample) (k : Nat),
    s.st = .cmd → s.pbuf = [] → (o = 0x61#8 ∨ o = 0x41#8) → data.length = 4 * n.toNat →
    delivers ps (o :: hi :: lo :: n :: data) → 1 ≤ k → k < ps.length → p.kind = .sessionStart →
    ∃ t u : State, runEvents (ps.take k) s = .next t ∧ t.taken = s.taken ∧ t.out = none ∧ t.st ≠ .cmd ∧
      react p t = .next u ∧ u.taken = s.taken ∧ u.out = none ∧ u.st = .cmd ∧ u.Untouched ∧ u.prevName = s.prevName

/-- A transaction is complete exactly when `rem` reaches zero: with `r` bytes still expected, `r` byte-transfers complete
it with the whole payload in arrival order, and after fewer it is still open (10_state R27, 20_memory R54). -/
def Obligations.PayloadCompletesExactlyAtRemZero : Prop :=
  ∀ (s : State) (r : RemCount) (ps : List PortSample), s.Inv → s.collecting = true → s.rem = some r →
    (∀ p ∈ ps, p.kind = .byteTransfer) →
    (ps.length < r.toNat → ∃ t, runEvents ps s = .next t ∧ t.st = s.st ∧ t.taken = s.taken ∧
      t.pbuf = s.pbuf ++ ps.map PortSample.byte) ∧
    (ps.length = r.toNat → ∃ t x, runEvents ps s = .next t ∧ t.st = .cmd ∧ t.taken = s.taken ++ [x] ∧
      x.payload = s.pbuf ++ ps.map PortSample.byte)

/-- No state is a dead end: from every state outside CMD that meets the invariants, at most 1023 byte-transfers bring the
FSM back to CMD (42_frame_fsm R142). The premise `Live` adds to R37 the written high byte in REG_LOW, the model's
inference (log entry 9). -/
def Obligations.BytesBringTheFsmBackToCmd : Prop :=
  ∀ (s : State) (ps : List PortSample), s.Live → s.st ≠ .cmd → (∀ p ∈ ps, p.kind = .byteTransfer) →
    1023 ≤ ps.length →
    ∃ (k : Nat) (t : State), 1 ≤ k ∧ k ≤ 1023 ∧ runEvents (ps.take k) s = .next t ∧ t.st = .cmd
end

