-- ==== Sys2Proof/Laws/Decode.lean ====
section
/-! SUPPORT. The decoder on a word of given fields: what each state and kind selects, whatever the don't-care bits and
the byte (spec 30_encoding R80, R81). -/

namespace Sys2Proof

/-- The seven bits of a decode word above its byte (30_encoding R80). -/
def DecodeWord.top (w : DecodeWord) : BitVec 7 := w.extractLsb' 8 7

theorem DecodeWord.form_eq_append (k : BitVec 2) (c : BitVec 3) (w l : Bool) (b : Byte) :
    DecodeWord.form k c w l b =
      ((k ++ c ++ BitVec.ofBool w ++ BitVec.ofBool l : BitVec 7) ++ b : BitVec 15) := rfl

theorem DecodeWord.top_append (x : BitVec 7) (b : Byte) : DecodeWord.top (x ++ b : BitVec 15) = x := by
  apply BitVec.eq_of_getLsbD_eq
  intro i hi
  simp only [DecodeWord.top, BitVec.getLsbD_extractLsb', BitVec.getLsbD_append]
  simp [hi]

theorem DecodeWord.byte_append (x : BitVec 7) (b : Byte) : DecodeWord.byte (x ++ b : BitVec 15) = b := by
  apply BitVec.eq_of_getLsbD_eq
  intro i hi
  simp only [DecodeWord.byte, BitVec.getLsbD_extractLsb', BitVec.getLsbD_append]
  simp [hi]

theorem DecodeWord.eq_append (v : DecodeWord) : v = (v.top ++ v.byte : BitVec 15) := by
  apply BitVec.eq_of_getLsbD_eq
  intro i hi
  simp only [DecodeWord.top, DecodeWord.byte, BitVec.getLsbD_extractLsb', BitVec.getLsbD_append]
  by_cases h : i < 8
  · simp [h]
  · simp [h, show 8 + (i - 8) = i from by omega, show i - 8 < 7 from by omega]

theorem append_eq_append_iff (x y : BitVec 7) (b c : Byte) :
    (x ++ b : BitVec 15) = (y ++ c : BitVec 15) ↔ x = y ∧ b = c := by
  constructor
  · intro h
    exact ⟨by simpa only [DecodeWord.top_append] using congrArg DecodeWord.top h,
      by simpa only [DecodeWord.byte_append] using congrArg DecodeWord.byte h⟩
  · rintro ⟨rfl, rfl⟩
    rfl

/-- A row looks at the upper bits and at the byte separately (30_encoding R81). -/
theorem Row.hits_append (r : Row) (x : BitVec 7) (b : Byte) :
    r.hits (x ++ b : BitVec 15) =
      ((x &&& r.mask.top == r.pattern.top) && (b &&& r.mask.byte == r.pattern.byte)) := by
  unfold Row.hits
  conv_lhs => rw [DecodeWord.eq_append r.mask, DecodeWord.eq_append r.pattern, BitVec.and_append]
  rw [Bool.eq_iff_iff]
  simp [append_eq_append_iff]

/-- A full byte mask keeps the byte. -/
theorem byte_and_full (b : Byte) : b &&& 255#8 = b := by
  rw [show (255#8 : Byte) = BitVec.allOnes 8 from by decide, BitVec.and_allOnes]

theorem extract_byte_append (x : BitVec 7) (b : Byte) : (x ++ b : BitVec 15).extractLsb' 0 8 = b :=
  DecodeWord.byte_append x b

/-! What each kind and state selects, whatever the don't-care bits (30_encoding R81). -/

theorem decode_none (c : BitVec 3) (w l : Bool) (b : Byte) :
    decode (.form 0b00#2 c w l b) = .ok .evNone := by
  have h (x : BitVec 3) (w l : Bool) :
      ((0b00#2 ++ x ++ BitVec.ofBool w ++ BitVec.ofBool l : BitVec 7) &&& 96#7) = 0#7 := by
    revert x w l; decide
  simp [DecodeWord.form_eq_append, decode, selectRow, decodeMap, Row.hits_append, DecodeWord.top,
    DecodeWord.byte, h]

theorem decode_sessionStart (c : BitVec 3) (w l : Bool) (b : Byte) :
    decode (.form 0b01#2 c w l b) = .ok .evSessionStart := by
  have h (x : BitVec 3) (w l : Bool) :
      ((0b01#2 ++ x ++ BitVec.ofBool w ++ BitVec.ofBool l : BitVec 7) &&& 96#7) = 32#7 := by
    revert x w l; decide
  simp [DecodeWord.form_eq_append, decode, selectRow, decodeMap, Row.hits_append, DecodeWord.top,
    DecodeWord.byte, h]

theorem decode_sessionEnd (c : BitVec 3) (w l : Bool) (b : Byte) :
    decode (.form 0b11#2 c w l b) = .ok .evSessionEnd := by
  have h (x : BitVec 3) (w l : Bool) :
      ((0b11#2 ++ x ++ BitVec.ofBool w ++ BitVec.ofBool l : BitVec 7) &&& 96#7) = 96#7 := by
    revert x w l; decide
  simp [DecodeWord.form_eq_append, decode, selectRow, decodeMap, Row.hits_append, DecodeWord.top,
    DecodeWord.byte, h]

theorem decode_cmd (w l : Bool) (b : Byte) :
    decode (.form 0b10#2 0b000#3 w l b) =
      .ok (if b = 0x61#8 then .cmdWrite else if b = 0x41#8 then .cmdRead else .cmdBadop b) := by
  rw [DecodeWord.form_eq_append]
  by_cases h1 : b = 0x61#8
  · subst h1; cases w <;> cases l <;> decide
  by_cases h2 : b = 0x41#8
  · subst h2; cases w <;> cases l <;> decide
  have h1' : (b == 97#8) = false := by simpa using h1
  have h2' : (b == 65#8) = false := by simpa using h2
  cases w <;> cases l <;>
    simp [decode, selectRow, decodeMap, Row.hits_append, DecodeWord.top, DecodeWord.byte,
      extract_byte_append, byte_and_full, h1, h2, h1', h2']

theorem decode_regHigh (w l : Bool) (b : Byte) :
    decode (.form 0b10#2 0b001#3 w l b) = .ok (.regHighByte b) := by
  rw [DecodeWord.form_eq_append]
  cases w <;> cases l <;>
    simp [decode, selectRow, decodeMap, Row.hits_append, DecodeWord.top, DecodeWord.byte,
      extract_byte_append]

theorem decode_regLow (w l : Bool) (b : Byte) :
    decode (.form 0b10#2 0b010#3 w l b) = .ok (.regLowByte b) := by
  rw [DecodeWord.form_eq_append]
  cases w <;> cases l <;>
    simp [decode, selectRow, decodeMap, Row.hits_append, DecodeWord.top, DecodeWord.byte,
      extract_byte_append]

theorem decode_wordCount (w l : Bool) (b : Byte) :
    decode (.form 0b10#2 0b011#3 w l b) =
      .ok (if b = 0x00#8 then (if w then .wcZeroWrite else .wcZeroRead) else .wcNonzero b) := by
  rw [DecodeWord.form_eq_append]
  by_cases h : b = 0x00#8
  · subst h; cases w <;> cases l <;> decide
  have h' : (b == 0#8) = false := by simpa using h
  cases w <;> cases l <;>
    simp [decode, selectRow, decodeMap, Row.hits_append, DecodeWord.top, DecodeWord.byte,
      extract_byte_append, byte_and_full, h, h']

theorem decode_dataRead (w l : Bool) (b : Byte) :
    decode (.form 0b10#2 0b100#3 w l b) = .ok (if l then .dataReadLast b else .dataReadMore b) := by
  rw [DecodeWord.form_eq_append]
  cases w <;> cases l <;>
    simp [decode, selectRow, decodeMap, Row.hits_append, DecodeWord.top, DecodeWord.byte,
      extract_byte_append]

theorem decode_dataWrite (w l : Bool) (b : Byte) :
    decode (.form 0b10#2 0b101#3 w l b) = .ok (if l then .dataWriteLast b else .dataWriteMore b) := by
  rw [DecodeWord.form_eq_append]
  cases w <;> cases l <;>
    simp [decode, selectRow, decodeMap, Row.hits_append, DecodeWord.top, DecodeWord.byte,
      extract_byte_append]

end Sys2Proof
end

