-- ==== Sys2Proof/Laws/State.lean ====
section
/-! SUPPORT. Each field of the state after each named update. -/

namespace Sys2Proof.Machine

variable (s : State)

/-! ### quiet: no record in this step -/

@[simp] theorem State.quiet_st : (s.quiet).st = s.st := rfl
@[simp] theorem State.quiet_op : (s.quiet).op = s.op := rfl
@[simp] theorem State.quiet_addrHi : (s.quiet).addrHi = s.addrHi := rfl
@[simp] theorem State.quiet_addrLo : (s.quiet).addrLo = s.addrLo := rfl
@[simp] theorem State.quiet_name : (s.quiet).name = s.name := rfl
@[simp] theorem State.quiet_wc : (s.quiet).wc = s.wc := rfl
@[simp] theorem State.quiet_rem : (s.quiet).rem = s.rem := rfl
@[simp] theorem State.quiet_pbuf : (s.quiet).pbuf = s.pbuf := rfl
@[simp] theorem State.quiet_tOpStart : (s.quiet).tOpStart = s.tOpStart := rfl
@[simp] theorem State.quiet_tHdrEnd : (s.quiet).tHdrEnd = s.tHdrEnd := rfl
@[simp] theorem State.quiet_tWrStart : (s.quiet).tWrStart = s.tWrStart := rfl
@[simp] theorem State.quiet_prevName : (s.quiet).prevName = s.prevName := rfl
@[simp] theorem State.quiet_out : (s.quiet).out = none := rfl
@[simp] theorem State.quiet_inp : (s.quiet).inp = s.inp := rfl
@[simp] theorem State.quiet_taken : (s.quiet).taken = s.taken := rfl

/-! ### emit: a record emitted -/

@[simp] theorem State.emit_st (r : Record) : (s.emit r).st = s.st := rfl
@[simp] theorem State.emit_op (r : Record) : (s.emit r).op = s.op := rfl
@[simp] theorem State.emit_addrHi (r : Record) : (s.emit r).addrHi = s.addrHi := rfl
@[simp] theorem State.emit_addrLo (r : Record) : (s.emit r).addrLo = s.addrLo := rfl
@[simp] theorem State.emit_name (r : Record) : (s.emit r).name = s.name := rfl
@[simp] theorem State.emit_wc (r : Record) : (s.emit r).wc = s.wc := rfl
@[simp] theorem State.emit_rem (r : Record) : (s.emit r).rem = s.rem := rfl
@[simp] theorem State.emit_pbuf (r : Record) : (s.emit r).pbuf = s.pbuf := rfl
@[simp] theorem State.emit_tOpStart (r : Record) : (s.emit r).tOpStart = s.tOpStart := rfl
@[simp] theorem State.emit_tHdrEnd (r : Record) : (s.emit r).tHdrEnd = s.tHdrEnd := rfl
@[simp] theorem State.emit_tWrStart (r : Record) : (s.emit r).tWrStart = s.tWrStart := rfl
@[simp] theorem State.emit_prevName (r : Record) : (s.emit r).prevName = s.prevName := rfl
@[simp] theorem State.emit_out (r : Record) : (s.emit r).out = some r := rfl
@[simp] theorem State.emit_inp (r : Record) : (s.emit r).inp = s.inp := rfl
@[simp] theorem State.emit_taken (r : Record) : (s.emit r).taken = s.taken ++ [r] := rfl

/-! ### bufAppend: a byte appended to the buffer (20_memory R52) -/

@[simp] theorem State.bufAppend_st (b : Byte) : (s.bufAppend b).st = s.st := rfl
@[simp] theorem State.bufAppend_op (b : Byte) : (s.bufAppend b).op = s.op := rfl
@[simp] theorem State.bufAppend_addrHi (b : Byte) : (s.bufAppend b).addrHi = s.addrHi := rfl
@[simp] theorem State.bufAppend_addrLo (b : Byte) : (s.bufAppend b).addrLo = s.addrLo := rfl
@[simp] theorem State.bufAppend_name (b : Byte) : (s.bufAppend b).name = s.name := rfl
@[simp] theorem State.bufAppend_wc (b : Byte) : (s.bufAppend b).wc = s.wc := rfl
@[simp] theorem State.bufAppend_rem (b : Byte) : (s.bufAppend b).rem = s.rem := rfl
@[simp] theorem State.bufAppend_pbuf (b : Byte) : (s.bufAppend b).pbuf = s.pbuf ++ [b] := rfl
@[simp] theorem State.bufAppend_tOpStart (b : Byte) : (s.bufAppend b).tOpStart = s.tOpStart := rfl
@[simp] theorem State.bufAppend_tHdrEnd (b : Byte) : (s.bufAppend b).tHdrEnd = s.tHdrEnd := rfl
@[simp] theorem State.bufAppend_tWrStart (b : Byte) : (s.bufAppend b).tWrStart = s.tWrStart := rfl
@[simp] theorem State.bufAppend_prevName (b : Byte) : (s.bufAppend b).prevName = s.prevName := rfl
@[simp] theorem State.bufAppend_out (b : Byte) : (s.bufAppend b).out = s.out := rfl
@[simp] theorem State.bufAppend_inp (b : Byte) : (s.bufAppend b).inp = s.inp := rfl
@[simp] theorem State.bufAppend_taken (b : Byte) : (s.bufAppend b).taken = s.taken := rfl

/-! ### discard: the Transaction discarded (42_frame_fsm R140) -/

@[simp] theorem State.discard_st : (s.discard).st = s.st := rfl
@[simp] theorem State.discard_op : (s.discard).op = none := rfl
@[simp] theorem State.discard_addrHi : (s.discard).addrHi = none := rfl
@[simp] theorem State.discard_addrLo : (s.discard).addrLo = none := rfl
@[simp] theorem State.discard_name : (s.discard).name = none := rfl
@[simp] theorem State.discard_wc : (s.discard).wc = none := rfl
@[simp] theorem State.discard_rem : (s.discard).rem = none := rfl
@[simp] theorem State.discard_pbuf : (s.discard).pbuf = [] := rfl
@[simp] theorem State.discard_tOpStart : (s.discard).tOpStart = none := rfl
@[simp] theorem State.discard_tHdrEnd : (s.discard).tHdrEnd = none := rfl
@[simp] theorem State.discard_tWrStart : (s.discard).tWrStart = none := rfl
@[simp] theorem State.discard_prevName : (s.discard).prevName = s.prevName := rfl
@[simp] theorem State.discard_out : (s.discard).out = s.out := rfl
@[simp] theorem State.discard_inp : (s.discard).inp = s.inp := rfl
@[simp] theorem State.discard_taken : (s.discard).taken = s.taken := rfl

/-! ### pastEvent: the stream moved past its event -/

@[simp] theorem State.pastEvent_st : (s.pastEvent).st = s.st := rfl
@[simp] theorem State.pastEvent_op : (s.pastEvent).op = s.op := rfl
@[simp] theorem State.pastEvent_addrHi : (s.pastEvent).addrHi = s.addrHi := rfl
@[simp] theorem State.pastEvent_addrLo : (s.pastEvent).addrLo = s.addrLo := rfl
@[simp] theorem State.pastEvent_name : (s.pastEvent).name = s.name := rfl
@[simp] theorem State.pastEvent_wc : (s.pastEvent).wc = s.wc := rfl
@[simp] theorem State.pastEvent_rem : (s.pastEvent).rem = s.rem := rfl
@[simp] theorem State.pastEvent_pbuf : (s.pastEvent).pbuf = s.pbuf := rfl
@[simp] theorem State.pastEvent_tOpStart : (s.pastEvent).tOpStart = s.tOpStart := rfl
@[simp] theorem State.pastEvent_tHdrEnd : (s.pastEvent).tHdrEnd = s.tHdrEnd := rfl
@[simp] theorem State.pastEvent_tWrStart : (s.pastEvent).tWrStart = s.tWrStart := rfl
@[simp] theorem State.pastEvent_prevName : (s.pastEvent).prevName = s.prevName := rfl
@[simp] theorem State.pastEvent_out : (s.pastEvent).out = s.out := rfl
@[simp] theorem State.pastEvent_inp : (s.pastEvent).inp = s.inp.tail := rfl
@[simp] theorem State.pastEvent_taken : (s.pastEvent).taken = s.taken := rfl

/-! ### present: an event delivered next -/

@[simp] theorem State.present_st (p : PortSample) : (s.present p).st = s.st := rfl
@[simp] theorem State.present_op (p : PortSample) : (s.present p).op = s.op := rfl
@[simp] theorem State.present_addrHi (p : PortSample) : (s.present p).addrHi = s.addrHi := rfl
@[simp] theorem State.present_addrLo (p : PortSample) : (s.present p).addrLo = s.addrLo := rfl
@[simp] theorem State.present_name (p : PortSample) : (s.present p).name = s.name := rfl
@[simp] theorem State.present_wc (p : PortSample) : (s.present p).wc = s.wc := rfl
@[simp] theorem State.present_rem (p : PortSample) : (s.present p).rem = s.rem := rfl
@[simp] theorem State.present_pbuf (p : PortSample) : (s.present p).pbuf = s.pbuf := rfl
@[simp] theorem State.present_tOpStart (p : PortSample) : (s.present p).tOpStart = s.tOpStart := rfl
@[simp] theorem State.present_tHdrEnd (p : PortSample) : (s.present p).tHdrEnd = s.tHdrEnd := rfl
@[simp] theorem State.present_tWrStart (p : PortSample) : (s.present p).tWrStart = s.tWrStart := rfl
@[simp] theorem State.present_prevName (p : PortSample) : (s.present p).prevName = s.prevName := rfl
@[simp] theorem State.present_out (p : PortSample) : (s.present p).out = s.out := rfl
@[simp] theorem State.present_inp (p : PortSample) : (s.present p).inp = p :: s.inp := rfl
@[simp] theorem State.present_taken (p : PortSample) : (s.present p).taken = s.taken := rfl

/-! ### pinWriteStart: the first payload byte pins a write's start time (42_frame_fsm R135) -/

@[simp] theorem State.pinWriteStart_st (t : TS) : (s.pinWriteStart t).st = s.st := by
  unfold State.pinWriteStart; split <;> rfl
@[simp] theorem State.pinWriteStart_op (t : TS) : (s.pinWriteStart t).op = s.op := by
  unfold State.pinWriteStart; split <;> rfl
@[simp] theorem State.pinWriteStart_addrHi (t : TS) : (s.pinWriteStart t).addrHi = s.addrHi := by
  unfold State.pinWriteStart; split <;> rfl
@[simp] theorem State.pinWriteStart_addrLo (t : TS) : (s.pinWriteStart t).addrLo = s.addrLo := by
  unfold State.pinWriteStart; split <;> rfl
@[simp] theorem State.pinWriteStart_name (t : TS) : (s.pinWriteStart t).name = s.name := by
  unfold State.pinWriteStart; split <;> rfl
@[simp] theorem State.pinWriteStart_wc (t : TS) : (s.pinWriteStart t).wc = s.wc := by
  unfold State.pinWriteStart; split <;> rfl
@[simp] theorem State.pinWriteStart_rem (t : TS) : (s.pinWriteStart t).rem = s.rem := by
  unfold State.pinWriteStart; split <;> rfl
@[simp] theorem State.pinWriteStart_pbuf (t : TS) : (s.pinWriteStart t).pbuf = s.pbuf := by
  unfold State.pinWriteStart; split <;> rfl
@[simp] theorem State.pinWriteStart_tOpStart (t : TS) : (s.pinWriteStart t).tOpStart = s.tOpStart := by
  unfold State.pinWriteStart; split <;> rfl
@[simp] theorem State.pinWriteStart_tHdrEnd (t : TS) : (s.pinWriteStart t).tHdrEnd = s.tHdrEnd := by
  unfold State.pinWriteStart; split <;> rfl
theorem State.pinWriteStart_tWrStart (t : TS) :
    (s.pinWriteStart t).tWrStart = if s.pbuf = [] then some t else s.tWrStart := by
  unfold State.pinWriteStart; split <;> rfl
@[simp] theorem State.pinWriteStart_prevName (t : TS) : (s.pinWriteStart t).prevName = s.prevName := by
  unfold State.pinWriteStart; split <;> rfl
@[simp] theorem State.pinWriteStart_out (t : TS) : (s.pinWriteStart t).out = s.out := by
  unfold State.pinWriteStart; split <;> rfl
@[simp] theorem State.pinWriteStart_inp (t : TS) : (s.pinWriteStart t).inp = s.inp := by
  unfold State.pinWriteStart; split <;> rfl
@[simp] theorem State.pinWriteStart_taken (t : TS) : (s.pinWriteStart t).taken = s.taken := by
  unfold State.pinWriteStart; split <;> rfl

/-! ### The port -/

@[simp] theorem State.port_present (p : PortSample) : (s.present p).port = p := rfl

@[simp] theorem State.pastEvent_present (p : PortSample) : (s.present p).pastEvent = s := rfl

@[simp] theorem State.port_nil (h : s.inp = []) : s.port = .idle := by simp [State.port, h]

end Sys2Proof.Machine
end

