-- ==== Sys2Proof/Laws/Ops.lean ====
section
/-! SUPPORT. For each shared operation, once, everything it can do; and the selection of a step's instruction. -/

namespace Sys2Proof.Machine

/-! ### Register reads -/

@[simp] theorem readReg_some {α : Type} (r : Reg) (x : α) (k : α → Result) : readReg r (some x) k = k x := rfl

@[simp] theorem readReg_none {α : Type} (r : Reg) (k : α → Result) :
    readReg r none k = .fault (.readUnwritten r) := rfl

/-- A read that goes on found a value. -/
theorem readReg_next {α : Type} {r : Reg} {v : Option α} {k : α → Result} {t : State} :
    readReg r v k = .next t ↔ ∃ x, v = some x ∧ k x = .next t := by
  cases v <;> simp

/-! ### The payload buffer (20_memory R52) -/

/-- An append below the bound keeps it (10_state R37 item 7). -/
theorem Memory.wf_bufAppend (s : State) (b : Byte) (h : s.plen < 1020) : Memory.wf (s.bufAppend b).pbuf := by
  simp [Memory.wf]
  omega

/-- The discarded buffer is within the bound. -/
theorem Memory.wf_discard (s : State) : Memory.wf s.discard.pbuf := by
  simp [Memory.wf]

/-- At power-on the buffer is within the bound. -/
theorem Memory.wf_reset : Memory.wf State.reset.pbuf := by decide

/-- Appending a byte leaves every earlier byte as it was. -/
theorem State.bufRead_bufAppend (s : State) (b : Byte) (k : Nat) (h : k < s.plen) :
    (s.bufAppend b).bufRead k = s.bufRead k := by
  simp [State.bufRead, List.getElem?_append_left h]

/-- The appended byte is the last one (20_memory R54). -/
theorem State.bufRead_bufAppend_last (s : State) (b : Byte) : (s.bufAppend b).bufRead s.plen = some b := by
  simp [State.bufRead]

/-! ### Completion (42_frame_fsm R138-R140) -/

/-- A completion goes on exactly when the header registers are written, and then all it does is this. -/
theorem complete_next {kind : RecKind} {ts te : TS} {s t : State} :
    complete kind ts te s = .next t ↔
      ∃ hi lo name, s.addrHi = some hi ∧ s.addrLo = some lo ∧ s.name = some name ∧
        t = s.afterRecord (resultRec kind hi lo name s.pbuf ts te) name := by
  simp only [complete, readReg_next, Host.Outcome.next.injEq]
  constructor
  · rintro ⟨hi, h1, lo, h2, name, h3, rfl⟩
    exact ⟨hi, lo, name, h1, h2, h3, rfl⟩
  · rintro ⟨hi, lo, name, h1, h2, h3, rfl⟩
    exact ⟨hi, h1, lo, h2, name, h3, rfl⟩

/-- A header-only end goes on exactly when it can read the start time and the header. -/
theorem headerOnly_next {kind : RecKind} {s t : State} :
    headerOnly kind s = .next t ↔
      ∃ ts hi lo name, s.tOpStart = some ts ∧ s.addrHi = some hi ∧ s.addrLo = some lo ∧ s.name = some name ∧
        t = s.afterRecord (resultRec kind hi lo name s.pbuf ts s.endTime) name := by
  simp only [headerOnly, readReg_next, complete_next]
  constructor
  · rintro ⟨ts, h0, hi, lo, name, h1, h2, h3, rfl⟩
    exact ⟨ts, hi, lo, name, h0, h1, h2, h3, rfl⟩
  · rintro ⟨ts, hi, lo, name, h0, h1, h2, h3, rfl⟩
    exact ⟨ts, h0, hi, lo, name, h1, h2, h3, rfl⟩

/-- Counting a byte goes on exactly when `rem` is written. -/
theorem countByte_next {b : Byte} {s t : State} :
    countByte b s = .next t ↔
      ∃ r, s.rem = some r ∧
        t = { s with pbuf := s.pbuf ++ [b], rem := some (remPred s.plen r), out := none } := by
  simp only [countByte, readReg_next, Host.Outcome.next.injEq]
  constructor
  · rintro ⟨r, h, rfl⟩
    exact ⟨r, h, rfl⟩
  · rintro ⟨r, h, rfl⟩
    exact ⟨r, h, rfl⟩

/-! ### Operand values -/

/-- `4 × N` as a number (30_encoding R75): no overflow. -/
theorem payloadCount_toNat (n : Byte) : (payloadCount n).toNat = 4 * n.toNat := by
  have h := BitVec.toNat_append n 0b00#2
  rw [Nat.shiftLeft_eq] at h
  simp only [payloadCount]
  rw [h]
  simp
  omega

/-- Above 0 the counter goes down by one (42_frame_fsm R133, R135). -/
theorem remPred_toNat (k : Nat) (r : RemCount) (h : 1 ≤ r.toNat) : (remPred k r).toNat = r.toNat - 1 := by
  have hr : r ≠ 0#10 := by rintro rfl; simp at h
  simp only [remPred, hr, if_false]
  rw [BitVec.toNat_sub_of_le]
  · rfl
  · simpa [BitVec.le_def] using h

/-! ### Selection (42_frame_fsm R124) -/

/-- The decode word of the step, when the selection can read what it needs. -/
theorem fetchWord_ok {s : State} {w : DecodeWord} :
    fetchWord s = .ok w ↔ s.selectionGap = none ∧ w = s.decodeWord := by
  unfold fetchWord
  split
  · simp_all
  · simp_all [eq_comm]

/-- What a step that goes on has done: formed a word, decoded it, run its rule and moved past its event. -/
theorem step_next {s t : State} :
    step s = .next t ↔
      ∃ i u, s.selectionGap = none ∧ decode s.decodeWord = .ok i ∧ exec i s = .next u ∧ t = u.pastEvent := by
  unfold step fetchWord
  cases s.selectionGap with
  | some r => simp
  | none =>
    cases h : decode s.decodeWord with
    | error e => simp [h]
    | ok i =>
      cases h' : exec i s <;> simp [h, h', pastEvent, eq_comm]

/-- No event: EV_NONE (42_frame_fsm R121). -/
theorem decode_of_idle {s : State} (h : s.port.kind = .none) : decode s.decodeWord = .ok .evNone := by
  simp only [State.decodeWord, h]
  exact decode_none ..

/-- A session-start, in every state (42_frame_fsm R122). -/
theorem decode_of_sessionStart {s : State} (h : s.port.kind = .sessionStart) :
    decode s.decodeWord = .ok .evSessionStart := by
  simp only [State.decodeWord, h]
  exact decode_sessionStart ..

/-- A session-end, in every state (42_frame_fsm R123). -/
theorem decode_of_sessionEnd {s : State} (h : s.port.kind = .sessionEnd) :
    decode s.decodeWord = .ok .evSessionEnd := by
  simp only [State.decodeWord, h]
  exact decode_sessionEnd ..

/-- The instruction of a byte-transfer, by state (30_encoding R81, 42_frame_fsm R124). -/
theorem decode_of_byte {s : State} (h : s.port.kind = .byteTransfer) :
    decode s.decodeWord = .ok
      (match s.st with
      | .cmd =>
        if s.port.byte = 0x61#8 then .cmdWrite else if s.port.byte = 0x41#8 then .cmdRead else .cmdBadop s.port.byte
      | .regHigh => .regHighByte s.port.byte
      | .regLow => .regLowByte s.port.byte
      | .wordCount =>
        if s.port.byte = 0x00#8 then (if s.op == some .write then .wcZeroWrite else .wcZeroRead)
        else .wcNonzero s.port.byte
      | .dataRead => if s.rem == some 1#10 then .dataReadLast s.port.byte else .dataReadMore s.port.byte
      | .dataWrite => if s.rem == some 1#10 then .dataWriteLast s.port.byte else .dataWriteMore s.port.byte) := by
  simp only [State.decodeWord, h, EvKind.code]
  cases s.st with
  | cmd => exact decode_cmd ..
  | regHigh => exact decode_regHigh ..
  | regLow => exact decode_regLow ..
  | wordCount => exact decode_wordCount ..
  | dataRead => exact decode_dataRead ..
  | dataWrite => exact decode_dataWrite ..

end Sys2Proof.Machine
end

