-- ==== Sys2Proof/Laws/PerInstr.lean ====
section
/-! SUPPORT. A statement made of each instruction as syntax: the word the encoder writes is one that the instruction's
own row of the decode map matches and builds the instruction from (spec 30_encoding R81). -/

namespace Sys2Proof.Laws.EncodingMatchesOwnRow

/-- Some row of the decode map matches the encoded word and builds this very instruction from it. -/
def Statement (i : Instr) : Prop :=
  ∃ r ∈ decodeMap, r.hits (encode i) = true ∧ r.build (encode i).byte = i

/-- A row that looks at no bit of the byte and builds from the byte: enough that its upper bits match. -/
theorem of_row {i : Instr} {b : Byte} (r : Row) (x : BitVec 7) (hr : r ∈ decodeMap) (hw : encode i = x ++ b)
    (hx : (x &&& r.mask.top == r.pattern.top) = true) (hm : r.mask.byte = 0#8) (hp : r.pattern.byte = 0#8)
    (hb : r.build b = i) : Statement i := by
  refine ⟨r, hr, ?_, ?_⟩
  · rw [hw, Row.hits_append, hx, hm, hp]
    simp
  · rw [hw, DecodeWord.byte_append, hb]

theorem evNone : Statement .evNone := ⟨_, List.mem_of_getElem? (i := 0) rfl, by decide, rfl⟩

theorem evSessionStart : Statement .evSessionStart := ⟨_, List.mem_of_getElem? (i := 1) rfl, by decide, rfl⟩

theorem evSessionEnd : Statement .evSessionEnd := ⟨_, List.mem_of_getElem? (i := 2) rfl, by decide, rfl⟩

theorem cmdWrite : Statement .cmdWrite := ⟨_, List.mem_of_getElem? (i := 3) rfl, by decide, rfl⟩

theorem cmdRead : Statement .cmdRead := ⟨_, List.mem_of_getElem? (i := 4) rfl, by decide, rfl⟩

theorem cmdBadop (b : Byte) : Statement (.cmdBadop b) :=
  of_row (b := b) _ 0b1000000#7 (List.mem_of_getElem? (i := 5) rfl) rfl (by decide) (by decide) (by decide) rfl

theorem regHighByte (b : Byte) : Statement (.regHighByte b) :=
  of_row (b := b) _ 0b1000100#7 (List.mem_of_getElem? (i := 6) rfl) rfl (by decide) (by decide) (by decide) rfl

theorem regLowByte (b : Byte) : Statement (.regLowByte b) :=
  of_row (b := b) _ 0b1001000#7 (List.mem_of_getElem? (i := 7) rfl) rfl (by decide) (by decide) (by decide) rfl

theorem wcZeroRead : Statement .wcZeroRead := ⟨_, List.mem_of_getElem? (i := 8) rfl, by decide, rfl⟩

theorem wcZeroWrite : Statement .wcZeroWrite := ⟨_, List.mem_of_getElem? (i := 9) rfl, by decide, rfl⟩

theorem wcNonzero (b : Byte) : Statement (.wcNonzero b) :=
  of_row (b := b) _ 0b1001100#7 (List.mem_of_getElem? (i := 10) rfl) rfl (by decide) (by decide) (by decide) rfl

theorem dataReadMore (b : Byte) : Statement (.dataReadMore b) :=
  of_row (b := b) _ 0b1010000#7 (List.mem_of_getElem? (i := 11) rfl) rfl (by decide) (by decide) (by decide) rfl

theorem dataReadLast (b : Byte) : Statement (.dataReadLast b) :=
  of_row (b := b) _ 0b1010001#7 (List.mem_of_getElem? (i := 12) rfl) rfl (by decide) (by decide) (by decide) rfl

theorem dataWriteMore (b : Byte) : Statement (.dataWriteMore b) :=
  of_row (b := b) _ 0b1010100#7 (List.mem_of_getElem? (i := 13) rfl) rfl (by decide) (by decide) (by decide) rfl

theorem dataWriteLast (b : Byte) : Statement (.dataWriteLast b) :=
  of_row (b := b) _ 0b1010101#7 (List.mem_of_getElem? (i := 14) rfl) rfl (by decide) (by decide) (by decide) rfl

end Sys2Proof.Laws.EncodingMatchesOwnRow
end

