-- ==== Sys2Proof/Laws/Step.lean ====
section
/-! SUPPORT. Everything a step that goes on can do, once: fifteen cases, one for each row of the decode map. Later proofs
take a step apart with `step_cases` and do not unfold it. -/

namespace Sys2Proof.Machine

/-- An event that is no byte-transfer is selected without reading a register. -/
theorem selectionGap_of_no_byte {s : State} (h : s.port.kind ≠ .byteTransfer) : s.selectionGap = none := by
  unfold State.selectionGap; cases hk : s.port.kind <;> simp_all

/-- The pinned state, field by field. -/
theorem State.pinWriteStart_eq (t : TS) (s : State) :
    s.pinWriteStart t = { s with tWrStart := if s.pbuf = [] then some t else s.tWrStart } := by
  unfold State.pinWriteStart
  split <;> rfl

/-- The last byte of a READ goes on exactly when it can read the start time and the header. -/
theorem execDataReadLast_next {b : Byte} {s t : State} :
    execDataReadLast b s = .next t ↔
      ∃ ts hi lo name, s.tOpStart = some ts ∧ s.addrHi = some hi ∧ s.addrLo = some lo ∧ s.name = some name ∧
        t = s.afterRecord (.rd hi lo name (s.pbuf ++ [b]) ts s.port.t1) name := by
  simp only [execDataReadLast, readReg_next, complete_next]
  constructor
  · rintro ⟨ts, h0, hi, lo, n, h1, h2, h3, rfl⟩
    exact ⟨ts, hi, lo, n, h0, h1, h2, h3, rfl⟩
  · rintro ⟨ts, hi, lo, n, h0, h1, h2, h3, rfl⟩
    exact ⟨ts, h0, hi, lo, n, h1, h2, h3, rfl⟩

/-- The last byte of a WRITE goes on exactly when it can read the start time, pinned by now, and the header. -/
theorem execDataWriteLast_next {b : Byte} {s t : State} :
    execDataWriteLast b s = .next t ↔
      ∃ ts hi lo name, (if s.pbuf = [] then some s.port.t0 else s.tWrStart) = some ts ∧
        s.addrHi = some hi ∧ s.addrLo = some lo ∧ s.name = some name ∧
        t = s.afterRecord
          (.wr hi lo name (s.pbuf ++ [b]) ts s.port.t1 (idField hi (s.pbuf ++ [b]))) name := by
  simp only [execDataWriteLast, readReg_next, complete_next, State.pinWriteStart_eq]
  constructor
  · rintro ⟨ts, h0, hi, lo, n, h1, h2, h3, rfl⟩
    exact ⟨ts, hi, lo, n, h0, h1, h2, h3, rfl⟩
  · rintro ⟨ts, hi, lo, n, h0, h1, h2, h3, rfl⟩
    exact ⟨ts, h0, hi, lo, n, h1, h2, h3, rfl⟩

/-- A payload byte of a WRITE that is not the last goes on exactly when `rem` is written. -/
theorem execDataWriteMore_next {b : Byte} {s t : State} :
    execDataWriteMore b s = .next t ↔
      ∃ r, s.rem = some r ∧
        t = { s with
          tWrStart := if s.pbuf = [] then some s.port.t0 else s.tWrStart
          pbuf := s.pbuf ++ [b], rem := some (remPred s.plen r), out := none } := by
  simp only [execDataWriteMore, countByte_next, State.pinWriteStart_eq]
  rfl

/-- What a step from `s` to `t` has done, by the row it selected (30_encoding R81). -/
inductive StepCase (s t : State) : Prop where
  /-- EV_NONE. -/
  | evNone (k : s.port.kind = .none) (e : t = { s with out := none, inp := s.inp.tail })
  /-- EV_SESSION_START. -/
  | evSessionStart (k : s.port.kind = .sessionStart)
      (e : t = { s with
        st := .cmd, op := none, addrHi := none, addrLo := none, name := none, wc := none, rem := none, pbuf := []
        tOpStart := none, tHdrEnd := none, tWrStart := none, out := none, inp := s.inp.tail })
  /-- EV_SESSION_END. -/
  | evSessionEnd (k : s.port.kind = .sessionEnd) (e : t = { s with out := none, inp := s.inp.tail })
  /-- CMD_WRITE. -/
  | cmdWrite (k : s.port.kind = .byteTransfer) (f : s.st = .cmd) (b : s.port.byte = 0x61#8)
      (e : t = { s with
        op := some .write, tOpStart := some s.port.t0, st := .regHigh, out := none, inp := s.inp.tail })
  /-- CMD_READ. -/
  | cmdRead (k : s.port.kind = .byteTransfer) (f : s.st = .cmd) (b : s.port.byte = 0x41#8)
      (e : t = { s with
        op := some .read, tOpStart := some s.port.t0, st := .regHigh, out := none, inp := s.inp.tail })
  /-- CMD_BADOP. -/
  | cmdBadop (k : s.port.kind = .byteTransfer) (f : s.st = .cmd) (b : s.port.byte ≠ 0x41#8)
      (b' : s.port.byte ≠ 0x61#8)
      (e : t = { s with
        out := some (.ce s.port.byte s.port.t0 s.port.t1)
        taken := s.taken ++ [.ce s.port.byte s.port.t0 s.port.t1], inp := s.inp.tail })
  /-- REG_HIGH_BYTE. -/
  | regHighByte (k : s.port.kind = .byteTransfer) (f : s.st = .regHigh)
      (e : t = { s with addrHi := some s.port.byte, st := .regLow, out := none, inp := s.inp.tail })
  /-- REG_LOW_BYTE. -/
  | regLowByte (hi : Byte) (k : s.port.kind = .byteTransfer) (f : s.st = .regLow) (e1 : s.addrHi = some hi)
      (e : t = { s with
        addrLo := some s.port.byte, name := some (regDirLookup (hex4 hi s.port.byte)), st := .wordCount
        out := none, inp := s.inp.tail })
  /-- WC_NONZERO. -/
  | wcNonzero (o : Opcode) (k : s.port.kind = .byteTransfer) (f : s.st = .wordCount) (b : s.port.byte ≠ 0x00#8)
      (a : s.op = some o)
      (e : t = { s with
        wc := some s.port.byte, rem := some (payloadCount s.port.byte), tHdrEnd := some s.port.t1
        st := payloadState o, out := none, inp := s.inp.tail })
  /-- WC_ZERO_READ. -/
  | wcZeroRead (ts : TS) (hi lo : Byte) (n : Mnemonic) (k : s.port.kind = .byteTransfer) (f : s.st = .wordCount)
      (b : s.port.byte = 0x00#8) (a : s.op = some .read) (e0 : s.tOpStart = some ts) (e1 : s.addrHi = some hi)
      (e2 : s.addrLo = some lo) (e3 : s.name = some n)
      (e : t = (s.afterRecord (.rd hi lo n s.pbuf ts s.port.t1) n).pastEvent)
  /-- WC_ZERO_WRITE. -/
  | wcZeroWrite (ts : TS) (hi lo : Byte) (n : Mnemonic) (k : s.port.kind = .byteTransfer) (f : s.st = .wordCount)
      (b : s.port.byte = 0x00#8) (a : s.op = some .write) (e0 : s.tOpStart = some ts) (e1 : s.addrHi = some hi)
      (e2 : s.addrLo = some lo) (e3 : s.name = some n)
      (e : t = (s.afterRecord (.wr hi lo n s.pbuf ts s.port.t1 (idField hi s.pbuf)) n).pastEvent)
  /-- DATA_READ_MORE. -/
  | dataReadMore (r : RemCount) (k : s.port.kind = .byteTransfer) (f : s.st = .dataRead) (a : s.rem = some r)
      (a' : r ≠ 1#10)
      (e : t = { s with
        pbuf := s.pbuf ++ [s.port.byte], rem := some (remPred s.plen r), out := none, inp := s.inp.tail })
  /-- DATA_READ_LAST. -/
  | dataReadLast (ts : TS) (hi lo : Byte) (n : Mnemonic) (k : s.port.kind = .byteTransfer) (f : s.st = .dataRead)
      (a : s.rem = some 1#10) (e0 : s.tOpStart = some ts) (e1 : s.addrHi = some hi) (e2 : s.addrLo = some lo)
      (e3 : s.name = some n)
      (e : t = (s.afterRecord (.rd hi lo n (s.pbuf ++ [s.port.byte]) ts s.port.t1) n).pastEvent)
  /-- DATA_WRITE_MORE. -/
  | dataWriteMore (r : RemCount) (k : s.port.kind = .byteTransfer) (f : s.st = .dataWrite) (a : s.rem = some r)
      (a' : r ≠ 1#10)
      (e : t = { s with
        tWrStart := if s.pbuf = [] then some s.port.t0 else s.tWrStart
        pbuf := s.pbuf ++ [s.port.byte], rem := some (remPred s.plen r), out := none, inp := s.inp.tail })
  /-- DATA_WRITE_LAST. -/
  | dataWriteLast (ts : TS) (hi lo : Byte) (n : Mnemonic) (k : s.port.kind = .byteTransfer) (f : s.st = .dataWrite)
      (a : s.rem = some 1#10) (e0 : (if s.pbuf = [] then some s.port.t0 else s.tWrStart) = some ts)
      (e1 : s.addrHi = some hi) (e2 : s.addrLo = some lo) (e3 : s.name = some n)
      (e : t = (s.afterRecord (.wr hi lo n (s.pbuf ++ [s.port.byte]) ts s.port.t1
        (idField hi (s.pbuf ++ [s.port.byte]))) n).pastEvent)

/-- A step that goes on is one of the fifteen cases. -/
theorem step_cases {s t : State} (h : step s = .next t) : StepCase s t := by
  obtain ⟨i, u, hg, hd, he, rfl⟩ := step_next.1 h
  cases hk : s.port.kind with
  | none => rw [decode_of_idle hk] at hd; cases hd; cases he; exact .evNone hk rfl
  | sessionStart => rw [decode_of_sessionStart hk] at hd; cases hd; cases he; exact .evSessionStart hk rfl
  | sessionEnd => rw [decode_of_sessionEnd hk] at hd; cases hd; cases he; exact .evSessionEnd hk rfl
  | byteTransfer =>
    rw [decode_of_byte hk] at hd
    cases hs : s.st <;> simp only [hs] at hd
    · split at hd
      · cases hd; cases he; exact .cmdWrite hk hs ‹_› rfl
      · split at hd
        · cases hd; cases he; exact .cmdRead hk hs ‹_› rfl
        · cases hd; cases he; exact .cmdBadop hk hs ‹_› ‹_› rfl
    · cases hd; cases he; exact .regHighByte hk hs rfl
    · cases hd
      obtain ⟨hi, ha, he⟩ := readReg_next.1 he
      cases he
      exact .regLowByte hi hk hs ha rfl
    · simp [State.selectionGap, hk, hs] at hg
      obtain ⟨o, ho⟩ := Option.ne_none_iff_exists'.1 hg
      split at hd
      · cases o <;> simp [ho] at hd <;> cases hd <;>
          obtain ⟨ts, hi, lo, n, h0, h1, h2, h3, rfl⟩ := headerOnly_next.1 he
        · exact .wcZeroRead ts hi lo n hk hs ‹_› ho h0 h1 h2 h3 rfl
        · exact .wcZeroWrite ts hi lo n hk hs ‹_› ho h0 h1 h2 h3 rfl
      · cases hd
        obtain ⟨o', ho', he⟩ := readReg_next.1 he
        cases he
        exact .wcNonzero o' hk hs ‹_› ho' rfl
    · simp [State.selectionGap, hk, hs] at hg
      obtain ⟨r, hr⟩ := Option.ne_none_iff_exists'.1 hg
      by_cases h1 : r = 1#10
      · subst h1; simp [hr] at hd; cases hd
        obtain ⟨ts, hi, lo, n, h0, h1, h2, h3, rfl⟩ := execDataReadLast_next.1 he
        exact .dataReadLast ts hi lo n hk hs hr h0 h1 h2 h3 rfl
      · simp [hr, h1] at hd; cases hd
        obtain ⟨r', hr', rfl⟩ := countByte_next.1 he
        rw [hr] at hr'; cases hr'
        exact .dataReadMore r hk hs hr h1 rfl
    · simp [State.selectionGap, hk, hs] at hg
      obtain ⟨r, hr⟩ := Option.ne_none_iff_exists'.1 hg
      by_cases h1 : r = 1#10
      · subst h1; simp [hr] at hd; cases hd
        obtain ⟨ts, hi, lo, n, h0, h1, h2, h3, rfl⟩ := execDataWriteLast_next.1 he
        exact .dataWriteLast ts hi lo n hk hs hr h0 h1 h2 h3 rfl
      · simp [hr, h1] at hd; cases hd
        obtain ⟨r', hr', rfl⟩ := execDataWriteMore_next.1 he
        rw [hr] at hr'; cases hr'
        exact .dataWriteMore r hk hs hr h1 rfl

/-- A step is made of its selection and its rule. -/
theorem step_of {s u : State} (i : Instr) (hg : s.selectionGap = none) (hd : decode s.decodeWord = .ok i)
    (he : exec i s = .next u) : step s = .next u.pastEvent :=
  step_next.2 ⟨i, u, hg, hd, he, rfl⟩

/-- Each of the fifteen cases is a step. -/
theorem step_of_case {s t : State} (h : StepCase s t) : step s = .next t := by
  cases h with
  | evNone k e => exact e ▸ step_of .evNone (selectionGap_of_no_byte (by simp [k])) (decode_of_idle k) rfl
  | evSessionStart k e =>
    exact e ▸ step_of .evSessionStart (selectionGap_of_no_byte (by simp [k])) (decode_of_sessionStart k) rfl
  | evSessionEnd k e =>
    exact e ▸ step_of .evSessionEnd (selectionGap_of_no_byte (by simp [k])) (decode_of_sessionEnd k) rfl
  | cmdWrite k f b e =>
    exact e ▸ step_of .cmdWrite (by simp [State.selectionGap, k, f]) (by rw [decode_of_byte k, f]; simp [b]) rfl
  | cmdRead k f b e =>
    exact e ▸ step_of .cmdRead (by simp [State.selectionGap, k, f]) (by rw [decode_of_byte k, f]; simp [b]) rfl
  | cmdBadop k f b b' e =>
    exact e ▸ step_of (.cmdBadop s.port.byte) (by simp [State.selectionGap, k, f])
      (by rw [decode_of_byte k, f]; simp [b, b']) rfl
  | regHighByte k f e =>
    exact e ▸ step_of (.regHighByte s.port.byte) (by simp [State.selectionGap, k, f])
      (by rw [decode_of_byte k, f]) rfl
  | regLowByte hi k f e1 e =>
    exact e ▸ step_of (.regLowByte s.port.byte) (by simp [State.selectionGap, k, f])
      (by rw [decode_of_byte k, f]) (readReg_next.2 ⟨hi, e1, rfl⟩)
  | wcNonzero o k f b a e =>
    exact e ▸ step_of (.wcNonzero s.port.byte) (by simp [State.selectionGap, k, f, a])
      (by rw [decode_of_byte k, f]; simp [b]) (readReg_next.2 ⟨o, a, rfl⟩)
  | wcZeroRead ts hi lo n k f b a e0 e1 e2 e3 e =>
    exact e ▸ step_of .wcZeroRead (by simp [State.selectionGap, k, f, a])
      (by rw [decode_of_byte k, f]; simp [b, a]) (headerOnly_next.2 ⟨ts, hi, lo, n, e0, e1, e2, e3, rfl⟩)
  | wcZeroWrite ts hi lo n k f b a e0 e1 e2 e3 e =>
    exact e ▸ step_of .wcZeroWrite (by simp [State.selectionGap, k, f, a])
      (by rw [decode_of_byte k, f]; simp [b, a]) (headerOnly_next.2 ⟨ts, hi, lo, n, e0, e1, e2, e3, rfl⟩)
  | dataReadMore r k f a a' e =>
    exact e ▸ step_of (.dataReadMore s.port.byte) (by simp [State.selectionGap, k, f, a])
      (by rw [decode_of_byte k, f]; simp [a, a']) (countByte_next.2 ⟨r, a, rfl⟩)
  | dataReadLast ts hi lo n k f a e0 e1 e2 e3 e =>
    exact e ▸ step_of (.dataReadLast s.port.byte) (by simp [State.selectionGap, k, f, a])
      (by rw [decode_of_byte k, f]; simp [a]) (execDataReadLast_next.2 ⟨ts, hi, lo, n, e0, e1, e2, e3, rfl⟩)
  | dataWriteMore r k f a a' e =>
    exact e ▸ step_of (.dataWriteMore s.port.byte) (by simp [State.selectionGap, k, f, a])
      (by rw [decode_of_byte k, f]; simp [a, a']) (execDataWriteMore_next.2 ⟨r, a, rfl⟩)
  | dataWriteLast ts hi lo n k f a e0 e1 e2 e3 e =>
    exact e ▸ step_of (.dataWriteLast s.port.byte) (by simp [State.selectionGap, k, f, a])
      (by rw [decode_of_byte k, f]; simp [a]) (execDataWriteLast_next.2 ⟨ts, hi, lo, n, e0, e1, e2, e3, rfl⟩)

/-! ### Runs (00_scope R10) -/

/-- A run over a sequence is a run over its start, then one over the rest. -/
theorem runEvents_append (ps qs : List PortSample) (s t : State) (h : runEvents ps s = .next t) :
    runEvents (ps ++ qs) s = runEvents qs t := by
  induction ps generalizing s with
  | nil => cases h; rfl
  | cons p ps ih =>
    simp only [List.cons_append, runEvents] at h ⊢
    cases hr : react p s with
    | next u => rw [hr] at h; exact ih u h
    | fault f => rw [hr] at h; cases h
    | refused f => rw [hr] at h; cases h

end Sys2Proof.Machine
end

