-- ==== Sys2Proof/Tests/Slice0.lean ====
section
/-! SUPPORT. The model's own tests. Expected results are those of spec 95_test_vectors (the vector is named at each) or
worked by hand from the rule named. Each FSM test is one step on a small state. The witnesses at the end show that the
hypotheses of each statement can be met. -/

namespace Sys2Proof.Tests

open Sys2Proof.Machine

/-! ### Helpers -/

/-- The next state of a result, if it goes on. -/
def nextOf : Result → Option State
  | .next s => some s
  | .fault _ => none
  | .refused _ => none

/-- The timestamp a vector writes as the number `n`: the one of that code, where `TS` has it (log entry 2). -/
def stamp (n : Nat) : TS := if h : Config.isTime n = true then ⟨n, .inr h⟩ else .first

/-- A byte-transfer on the outbound line. -/
def byteAt (b : Byte) (t0 t1 : Nat) : PortSample := ⟨.byteTransfer, stamp t0, stamp t1, .outbound, b⟩

/-- A session event. -/
def session (k : EvKind) (t : Nat) : PortSample := ⟨k, stamp t, stamp 0, .outbound, 0⟩

/-- One step on an event: what `f` sees of the next state. -/
def after {α : Type} (p : PortSample) (s : State) (f : State → α) : Option α := (nextOf (react p s)).map f

/-- A Transaction with opcode `o` at address `hi lo`, named "X", in FSM state `f`. -/
def opened (f : FsmState) (o : Opcode) (hi lo : Byte) : State :=
  { State.reset with
    st := f, op := some o, addrHi := some hi, addrLo := some lo, name := some ['X'], tOpStart := some (stamp 0) }

/-- That Transaction collecting its payload of `n` words, with `r` bytes to come and `buf` received. -/
def collectingState (o : Opcode) (hi lo n : Byte) (r : RemCount) (buf : List Byte) : State :=
  { opened (payloadState o) o hi lo with
    wc := some n, rem := some r, pbuf := buf, tHdrEnd := some (stamp 38)
    tWrStart := if buf = [] then none else some (stamp 40) }

/-! ### Well-formedness: each check refuses an ill-formed term (30_encoding R81) -/

theorem test_wf_refuses_write_opcode_as_bad : (Instr.cmdBadop 0x61#8).wf = false := by decide
theorem test_wf_refuses_read_opcode_as_bad : (Instr.cmdBadop 0x41#8).wf = false := by decide
theorem test_wf_refuses_zero_as_nonzero : (Instr.wcNonzero 0x00#8).wf = false := by decide
theorem test_wf_accepts_neighbours :
    (Instr.cmdBadop 0x60#8).wf && (Instr.cmdBadop 0x40#8).wf && (Instr.wcNonzero 0x01#8).wf = true := by decide

/-! ### Decoding: one word for each constructor, its bits written out from 30_encoding R80 and R81 -/

theorem test_decode_evNone : decode 0b00_010_0_0_00000000#15 = .ok .evNone := by decide
theorem test_decode_evSessionStart : decode 0b01_000_0_0_00000000#15 = .ok .evSessionStart := by decide
theorem test_decode_evSessionEnd : decode 0b11_101_0_0_00000000#15 = .ok .evSessionEnd := by decide
theorem test_decode_cmdWrite : decode 0b10_000_0_0_01100001#15 = .ok .cmdWrite := by decide
theorem test_decode_cmdRead : decode 0b10_000_0_0_01000001#15 = .ok .cmdRead := by decide
theorem test_decode_cmdBadop : decode 0b10_000_0_0_11111111#15 = .ok (.cmdBadop 0xFF#8) := by decide
theorem test_decode_regHighByte : decode 0b10_001_1_0_00001000#15 = .ok (.regHighByte 0x08#8) := by decide
theorem test_decode_regLowByte : decode 0b10_010_1_0_01000000#15 = .ok (.regLowByte 0x40#8) := by decide
theorem test_decode_wcZeroRead : decode 0b10_011_0_0_00000000#15 = .ok .wcZeroRead := by decide
theorem test_decode_wcZeroWrite : decode 0b10_011_1_0_00000000#15 = .ok .wcZeroWrite := by decide
theorem test_decode_wcNonzero : decode 0b10_011_1_0_00000001#15 = .ok (.wcNonzero 0x01#8) := by decide
theorem test_decode_dataReadMore : decode 0b10_100_0_0_11011110#15 = .ok (.dataReadMore 0xDE#8) := by decide
theorem test_decode_dataReadLast : decode 0b10_100_0_1_11101111#15 = .ok (.dataReadLast 0xEF#8) := by decide
theorem test_decode_dataWriteMore : decode 0b10_101_1_0_00010001#15 = .ok (.dataWriteMore 0x11#8) := by decide
theorem test_decode_dataWriteLast : decode 0b10_101_1_1_01000100#15 = .ok (.dataWriteLast 0x44#8) := by decide

/-- The state codes that name no state (30_encoding R81, R85). -/
theorem test_decode_refuses_missing_states :
    decode 0b10_110_0_0_00000000#15 = .error (.noStateOfCode 0b110#3) ∧
    decode 0b10_111_1_1_01100001#15 = .error (.noStateOfCode 0b111#3) := by decide

/-- The `match` column of opcode_table.json, each word with the row's mnemonic there. -/
def tableMatches : List (Nat × Instr) :=
  [(0x0000, .evNone), (0x2000, .evSessionStart), (0x6000, .evSessionEnd), (0x4061, .cmdWrite), (0x4041, .cmdRead),
   (0x4000, .cmdBadop 0), (0x4400, .regHighByte 0), (0x4800, .regLowByte 0), (0x4C00, .wcZeroRead),
   (0x4E00, .wcZeroWrite), (0x4C01, .wcNonzero 1), (0x5000, .dataReadMore 0), (0x5100, .dataReadLast 0),
   (0x5400, .dataWriteMore 0), (0x5500, .dataWriteLast 0)]

theorem test_decodeTableWord : tableMatches.all (fun e => decodeTableWord 16 e.1 == some e.2) = true := by decide

/-- A placed word is the next step's instruction from reset, and the step goes on. -/
theorem test_withFetchWord_runs_the_word :
    tableMatches.all (fun e =>
      let s := State.reset.withFetchWord 16 e.1
      s.selects e.2 && (nextOf (step s)).isSome) = true := by decide

/-! ### Hexadecimal text, directory, extractor (95_test_vectors sections 2.1 to 2.3) -/

theorem test_hexs : hexs [0xDE#8, 0xAD#8, 0xBE#8, 0xEF#8] = "DEADBEEF".toList := by decide
theorem test_hex4 : hex4 0x0A#8 0xBC#8 = "0ABC".toList ∧ hex4 0x00#8 0x05#8 = "0005".toList := by decide
theorem test_payloadCount :
    (payloadCount 0#8).toNat = 0 ∧ (payloadCount 2#8).toNat = 8 ∧ (payloadCount 255#8).toNat = 1020 := by decide
theorem test_directory_known : regDirLookup "0840".toList = "TIMESTAMP_PRESCALER".toList := by decide
theorem test_directory_no_lower_case : regDirLookup "0a10".toList = "unknown".toList := by decide

/-- The valid strings of section 2.3. -/
theorem test_extractor_values :
    [("12345678", 0x48D#11), ("123456789ABCDEF0", 0x48D#11), ("84000000", 0x100#11), ("00000000", 0x000#11),
     ("FFFFFFFF", 0x7FF#11), ("1FFC0000", 0x7FF#11), ("0003FFFF", 0x000#11), ("00040000", 0x001#11),
     ("20000000", 0x000#11), ("E0040000", 0x001#11), ("11223344", 0x448#11), ("9ABCDEF0", 0x6AF#11),
     ("ABCDEF01", 0x2F3#11), ("abcdef01", 0x2F3#11)].all
      (fun e => idExtract e.1.toList == .ok e.2) = true := by decide

/-- The invalid strings of section 2.3. -/
theorem test_extractor_rejects :
    ["", "1234567", "1234567G", "12345678Z"].all (fun p => idExtract p.toList == .invalidInput) = true := by decide

theorem test_extractor_bytes :
    idExtractBytes [0x12#8, 0x34#8, 0x56#8, 0x78#8] = .ok 0x48D#11 ∧
    idExtractBytes [0xE0#8, 0x03#8, 0xFF#8, 0xFF#8] = .ok 0x000#11 ∧
    idExtractBytes [0x12#8, 0x34#8, 0x56#8] = .invalidInput := by decide

/-! ### The FSM, one vector per rule (95_test_vectors section 2.4) -/

/-- F1. -/
theorem test_evNone_keeps_the_transaction :
    after .idle (collectingState .read 0x00 0x10 1 3 [0xAA#8]) (fun t => (t.st, t.rem, t.pbuf)) =
      some (.dataRead, some 3, [0xAA#8]) := by decide

/-- F2. -/
theorem test_sessionStart_discards :
    after (session .sessionStart 100)
        { collectingState .write 0x08 0x40 2 6 [0x11#8, 0x22#8] with prevName := some ['X'] }
        (fun t => (t.st, t.pbuf, t.rem, t.prevName)) =
      some (.cmd, [], none, some ['X']) := by decide

/-- F4. -/
theorem test_sessionEnd_keeps_the_transaction :
    after (session .sessionEnd 50) (collectingState .write 0x08 0x40 1 4 []) (fun t => (t.st, t.rem, t.op)) =
      some (.dataWrite, some 4, some .write) := by decide

/-- F5. -/
theorem test_cmdWrite : after (byteAt 0x61 0 8) State.reset (fun t => (t.st, t.op, t.tOpStart, t.out)) =
    some (.regHigh, some .write, some (stamp 0), none) := rfl

/-- F25. -/
theorem test_cmdWrite_on_the_inbound_line :
    after ⟨.byteTransfer, stamp 0, stamp 8, .inbound, 0x61⟩ State.reset (fun t => (t.st, t.op)) =
      some (.regHigh, some .write) := by decide

/-- F6. -/
theorem test_cmdRead : after (byteAt 0x41 30 38) State.reset (fun t => (t.st, t.op, t.tOpStart)) =
    some (.regHigh, some .read, some (stamp 30)) := rfl

/-- F7. -/
theorem test_cmdBadop : after (byteAt 0xFF 0 8) State.reset (fun t => (t.st, t.op, t.out.map (·.payloadHex), t.taken)) =
    some (.cmd, none, some "FF".toList, [Record.ce 0xFF (stamp 0) (stamp 8)]) := rfl

/-- F9, F10: one bit from READ and from WRITE. -/
theorem test_cmdBadop_one_bit_off :
    after (byteAt 0x40 0 8) State.reset (·.out) = some (some (Record.ce 0x40 (stamp 0) (stamp 8))) ∧
    after (byteAt 0x60 0 8) State.reset (·.out) = some (some (Record.ce 0x60 (stamp 0) (stamp 8))) := ⟨rfl, rfl⟩

/-- F11: an opcode value as data. -/
theorem test_regHighByte :
    after (byteAt 0x61 10 18) { State.reset with st := .regHigh, op := some .read, tOpStart := some (stamp 0) }
        (fun t => (t.st, t.addrHi, t.op)) =
      some (.regLow, some 0x61, some .read) := by decide

/-- F12. -/
theorem test_regLowByte :
    after (byteAt 0x40 20 28)
        { State.reset with st := .regLow, op := some .write, tOpStart := some (stamp 0), addrHi := some 0x08 }
        (fun t => (t.st, t.addrLo, t.name)) =
      some (.wordCount, some 0x40, some "TIMESTAMP_PRESCALER".toList) := by decide

/-- F14. -/
theorem test_wcNonzero :
    after (byteAt 0x02 30 38) (opened .wordCount .write 0x08 0x40) (fun t => (t.st, t.wc, t.rem, t.tHdrEnd)) =
      some (.dataWrite, some 2, some 8, some (stamp 38)) := rfl

/-- F15: the largest frame. -/
theorem test_wcNonzero_largest :
    after (byteAt 0xFF 30 38) (opened .wordCount .read 0x08 0x40) (fun t => (t.st, t.wc, t.rem)) =
      some (.dataRead, some 255, some 1020) := by decide

/-- F16: no identifier for a READ at the marker. -/
theorem test_wcZeroRead :
    after (byteAt 0x00 30 38) (opened .wordCount .read 0x84 0x01) (fun t => (t.st, t.op, t.prevName, t.out)) =
      some (.cmd, none, some ['X'], some (Record.rd 0x84 0x01 ['X'] [] (stamp 0) (stamp 38))) := rfl

/-- F17: at the marker the extraction fails (EC2). -/
theorem test_wcZeroWrite :
    after (byteAt 0x00 30 38) (opened .wordCount .write 0x84 0x00) (fun t => (t.st, t.out, t.out.map (·.causes))) =
      some (.cmd, some (Record.wr 0x84 0x00 ['X'] [] (stamp 0) (stamp 38) none), some [.malformedPayload]) := rfl

/-- F19. -/
theorem test_dataReadMore :
    after (byteAt 0x41 40 48) (collectingState .read 0x00 0x10 1 4 []) (fun t => (t.st, t.rem, t.pbuf, t.out)) =
      some (.dataRead, some 3, [0x41#8], none) := by decide

/-- F20. -/
theorem test_dataReadLast :
    after (byteAt 0xEF 80 88) { collectingState .read 0x00 0x10 1 1 [0xDE, 0xAD, 0xBE] with tOpStart := some (stamp 10) }
        (fun t => (t.st, t.pbuf, t.out)) =
      some (.cmd, [], some (Record.rd 0x00 0x10 ['X'] [0xDE, 0xAD, 0xBE, 0xEF] (stamp 10) (stamp 88))) := rfl

/-- F21: the first payload byte pins the start time. -/
theorem test_dataWriteMore_pins :
    after (byteAt 0x11 40 48) (collectingState .write 0x08 0x40 1 4 []) (fun t => (t.tWrStart, t.pbuf, t.rem)) =
      some (some (stamp 40), [0x11#8], some 3) := rfl

/-- F22: later bytes leave it. -/
theorem test_dataWriteMore_keeps_the_pin :
    after (byteAt 0x22 50 58) (collectingState .write 0x08 0x40 1 3 [0x11]) (fun t => (t.tWrStart, t.rem)) =
      some (some (stamp 40), some 2) := rfl

/-- F23. -/
theorem test_dataWriteLast :
    after (byteAt 0x44 70 78) (collectingState .write 0x08 0x40 1 1 [0x11, 0x22, 0x33]) (fun t => (t.st, t.out)) =
      some (.cmd, some (Record.wr 0x08 0x40 ['X'] [0x11, 0x22, 0x33, 0x44] (stamp 40) (stamp 78) none)) := rfl

/-- F24: the identifier at the marker. -/
theorem test_dataWriteLast_at_the_marker :
    after (byteAt 0x78 70 78) (collectingState .write 0x84 0x10 1 1 [0x12, 0x34, 0x56])
        (fun t => t.out.map fun r => (r.key, r.payloadHex, r.id)) =
      some (some (some "8410".toList, "12345678".toList, some 0x48D#11)) := by decide

/-- A read before a write faults (10_state, opening paragraph). -/
theorem test_unwritten_read_faults :
    nextOf (react (byteAt 0x40 0 8) { State.reset with st := .regLow }) = none := by decide

/-! ### Streams and ports (30_encoding R86, R87; 10_state R36) -/

/-- The listing codes of P7. -/
theorem test_listing_codes :
    [0x100, 0x241, 0x261, 0x300, 0x2FF, 0x000].map Item.ofListing? =
      [some .s, some (.b 0x41 .outbound), some (.b 0x61 .outbound), some .e, some (.b 0xFF .outbound), none] := by
  decide

/-- The default times: a session event takes the next byte slot's time and does not consume it. -/
theorem test_default_times :
    schedule stamp 0 [.s, .b 0x61 .outbound, .b 0x08 .inbound, .e] =
      [.sessionStart (stamp 0), .byteTransfer (stamp 0) (stamp 8) .outbound 0x61,
       .byteTransfer (stamp 10) (stamp 18) .inbound 0x08, .sessionEnd (stamp 20)] := rfl

/-- The header of P1's write, P4's read, and what the pseudo-transactions exclude. -/
theorem test_pseudo_transactions :
    writeTxn? 0x0840#16 [0x11, 0x22, 0x33, 0x44] =
      some (bytes [0x61, 0x08, 0x40, 0x01, 0x11, 0x22, 0x33, 0x44]) ∧
    readTxn? 0x0840#16 0 [] = some (bytes [0x41, 0x08, 0x40, 0x00]) ∧
    writeTxn? 0x0840#16 [0x11] = none ∧ readTxn? 0x0840#16 1 [] = none ∧ bad? 0x41 = none := by decide

/-- The ports after F17's record, and with no record. -/
theorem test_output_ports :
    let s := { State.reset with out := some (Record.wr 0x84 0x00 ['X'] [] (stamp 0) (stamp 38) none) }
    s.outPorts.recKind = some 0b11#2 ∧ s.outPorts.recIdValid = some false ∧
    State.reset.outPorts.recValid = false ∧ State.reset.outPorts.recKind = none := by decide

/-! ### Witnesses: the hypotheses of each statement are met, at the boundary of each clause -/

theorem witness_StepRunsTheDecodedInstruction :
    fetchWord State.reset = .ok 0x0000#15 ∧ decode 0x0000#15 = .ok .evNone := by decide

/-- A block in state `f` with the byte `b` at its port. -/
def atByte (s : State) (b : Byte) : State := s.present (byteAt b 30 38)

theorem witness_EvNoneChangesNothing : State.reset.port.kind = .none := by decide
theorem witness_SessionStartDiscardsTheTransaction :
    (State.reset.present (session .sessionStart 0)).port.kind = .sessionStart := by decide
theorem witness_SessionEndChangesNothing :
    (State.reset.present (session .sessionEnd 0)).port.kind = .sessionEnd := by decide
theorem witness_WriteOpcodeOpensATransaction :
    let s := atByte State.reset 0x61
    s.port.kind = .byteTransfer ∧ s.st = .cmd ∧ s.port.byte = 0x61#8 := by decide
theorem witness_ReadOpcodeOpensATransaction :
    let s := atByte State.reset 0x41
    s.port.kind = .byteTransfer ∧ s.st = .cmd ∧ s.port.byte = 0x41#8 := by decide
theorem witness_IllegalOpcodeEmitsOneCommandError :
    [0x00#8, 0x40#8, 0x42#8, 0x60#8, 0x62#8, 0xFF#8].all (fun b =>
      let s := atByte State.reset b
      s.port.kind == .byteTransfer && s.st == .cmd && s.port.byte != 0x41#8 && s.port.byte != 0x61#8) = true := by
  decide
theorem witness_RegHighByteLatchesTheAddressHighByte :
    let s := atByte { State.reset with st := .regHigh } 0x84
    s.port.kind = .byteTransfer ∧ s.st = .regHigh := by decide
theorem witness_RegLowByteLooksUpTheName :
    let s := atByte { State.reset with st := .regLow, addrHi := some 0x08 } 0x40
    s.port.kind = .byteTransfer ∧ s.st = .regLow ∧ s.addrHi = some 0x08#8 := by decide
theorem witness_NonzeroWordCountSetsTheCounter :
    [0x01#8, 0xFF#8].all (fun b => [Opcode.read, Opcode.write].all fun o =>
      let s := atByte (opened .wordCount o 0x08 0x40) b
      s.port.kind == .byteTransfer && s.st == .wordCount && s.op == some o && s.port.byte != 0x00#8) = true := by
  decide
theorem witness_ZeroWordCountCompletesARead :
    let s := atByte (opened .wordCount .read 0x08 0x40) 0x00
    s.port.kind = .byteTransfer ∧ s.st = .wordCount ∧ s.op = some .read ∧ s.port.byte = 0x00#8 ∧
    s.addrHi = some 0x08#8 ∧ s.addrLo = some 0x40#8 ∧ s.name = some ['X'] ∧ s.tOpStart = some (stamp 0) :=
  ⟨rfl, rfl, rfl, rfl, rfl, rfl, rfl, rfl⟩
theorem witness_ZeroWordCountCompletesAWrite :
    let s := atByte (opened .wordCount .write 0x84 0x00) 0x00
    s.port.kind = .byteTransfer ∧ s.st = .wordCount ∧ s.op = some .write ∧ s.port.byte = 0x00#8 ∧
    s.addrHi = some 0x84#8 ∧ s.addrLo = some 0x00#8 ∧ s.name = some ['X'] ∧ s.tOpStart = some (stamp 0) :=
  ⟨rfl, rfl, rfl, rfl, rfl, rfl, rfl, rfl⟩
theorem witness_ReadPayloadByteIsCounted :
    [0x002#10, 0x3FC#10].all (fun r =>
      let s := atByte (collectingState .read 0x08 0x40 255 r []) 0xAA
      s.port.kind == .byteTransfer && s.st == .dataRead && s.rem == some r && decide (2 ≤ r.toNat)) = true := by decide
theorem witness_LastReadPayloadByteCompletes :
    let s := atByte (collectingState .read 0x08 0x40 1 1 [1, 2, 3]) 0xAA
    s.port.kind = .byteTransfer ∧ s.st = .dataRead ∧ s.rem = some 1#10 ∧
    s.addrHi = some 0x08#8 ∧ s.addrLo = some 0x40#8 ∧ s.name = some ['X'] ∧ s.tOpStart = some (stamp 0) :=
  ⟨rfl, rfl, rfl, rfl, rfl, rfl, rfl⟩
theorem witness_WritePayloadByteIsCounted :
    [0x002#10, 0x3FC#10].all (fun r =>
      let s := atByte (collectingState .write 0x08 0x40 255 r []) 0xAA
      s.port.kind == .byteTransfer && s.st == .dataWrite && s.rem == some r && decide (2 ≤ r.toNat)) = true := by decide
theorem witness_LastWritePayloadByteCompletes :
    let s := atByte (collectingState .write 0x84 0x10 1 1 [1, 2, 3]) 0xAA
    s.port.kind = .byteTransfer ∧ s.st = .dataWrite ∧ s.rem = some 1#10 ∧
    s.addrHi = some 0x84#8 ∧ s.addrLo = some 0x10#8 ∧ s.name = some ['X'] ∧
    (if s.plen = 0 then some s.port.t0 else s.tWrStart) = some (stamp 40) :=
  ⟨rfl, rfl, rfl, rfl, rfl, rfl, rfl⟩
theorem witness_UnwrittenRegisterReadFaults :
    State.reset.addrHi = none ∧ State.reset.op = none ∧ State.reset.rem = none ∧ State.reset.tOpStart = none ∧
    ({ State.reset with pbuf := [1] } : State).tWrStart = none ∧ ({ State.reset with pbuf := [1] } : State).plen ≠ 0 := by
  decide
theorem witness_DecodeInvertsEncode :
    (Instr.cmdBadop 0x00#8).WellFormed ∧ (Instr.wcNonzero 0xFF#8).WellFormed ∧ Instr.evNone.WellFormed := by decide
theorem witness_DecodedWordMatchesItsRow : decode 0x4C01#15 = .ok (.wcNonzero 0x01#8) := by decide
theorem witness_RowsOfOnePriorityAreDisjoint :
    decodeMap.all (fun r => r.hits r.pattern) = true := by decide
theorem witness_DirectoryKeysCompareExactly : ∀ hi lo : Byte, ['0', 'a', '1', '0'] ≠ hex4 hi lo := by
  have h : ∀ n : Nibble, hexDigit n ≠ 'a' := by decide
  intro hi lo e
  injection e with _ e
  injection e with e _
  exact h (hi.extractLsb' 0 4) e.symm
theorem witness_ExtractorMasksAndShiftsTheFirstWord :
    hexValue? '0' = some 0#4 ∧ hexValue? 'F' = some 15#4 ∧ hexValue? 'a' = some 10#4 ∧
    ∀ c ∈ ['8', 'f'], (hexValue? c).isSome = true := by
  refine ⟨rfl, rfl, rfl, ?_⟩
  intro c hc
  rcases List.mem_pair.1 hc with rfl | rfl <;> rfl
theorem witness_MarkerWriteHasIdIffPayload : 4 ≤ [0#8, 0#8, 0#8, 0#8].length := by decide

/-- A Transaction one byte short of its end, with one word, meets the invariants. -/
theorem live_last (o : Opcode) : (collectingState o 0x84 0x10 1 1 [1, 2, 3]).Live := by
  cases o <;>
    refine { opened := ?_, noPayload := ?_, addressed := ?_, counted := ?_, reading := ?_, writing := ?_,
             pinned := ?_, bounded := ?_, closed := ?_, highByte := ?_ } <;>
    simp [collectingState, opened, payloadState, State.collecting, State.hasAddress, State.plen, Memory.wf, State.reset]

/-- A Transaction at its first payload byte, with 255 words, meets the invariants. -/
theorem live_first (o : Opcode) : (collectingState o 0x84 0x10 255 1020 []).Live := by
  cases o <;>
    refine { opened := ?_, noPayload := ?_, addressed := ?_, counted := ?_, reading := ?_, writing := ?_,
             pinned := ?_, bounded := ?_, closed := ?_, highByte := ?_ } <;>
    simp [collectingState, opened, payloadState, State.collecting, State.hasAddress, State.plen, Memory.wf, State.reset]

/-- A Transaction that waits for its word count meets the invariants. -/
theorem live_wordCount (o : Opcode) : (opened .wordCount o 0x84 0x10).Live := by
  cases o <;>
    refine { opened := ?_, noPayload := ?_, addressed := ?_, counted := ?_, reading := ?_, writing := ?_,
             pinned := ?_, bounded := ?_, closed := ?_, highByte := ?_ } <;>
    simp [opened, State.collecting, State.hasAddress, Memory.wf, State.reset]

/-- A Transaction that waits for its address high byte, or for its low byte, meets the invariants. -/
theorem live_address :
    ({ State.reset with st := .regHigh, op := some .read, tOpStart := some (stamp 0) } : State).Live ∧
    ({ State.reset with st := .regLow, op := some .write, tOpStart := some (stamp 0), addrHi := some 0x08 } : State).Live := by
  constructor <;>
    refine { opened := ?_, noPayload := ?_, addressed := ?_, counted := ?_, reading := ?_, writing := ?_,
             pinned := ?_, bounded := ?_, closed := ?_, highByte := ?_ } <;>
    simp [State.collecting, State.hasAddress, Memory.wf, State.reset]

theorem witness_EveryStepKeepsTheInvariants (o : Opcode) :
    (collectingState o 0x84 0x10 255 1020 []).Inv ∧
    ∃ t, step (collectingState o 0x84 0x10 255 1020 []) = .next t := by
  exact ⟨(live_first o).toInv, _, step_of_case (.evNone rfl rfl)⟩
theorem witness_LiveStatesAlwaysStep (o : Opcode) : (collectingState o 0x84 0x10 1 1 [1, 2, 3]).Live := live_last o
theorem witness_NameIsTheDirectorysAnswer :
    ({ opened .wordCount .read 0x08 0x40 with name := some Config.timestampPrescaler } : State).Named ∧
    ∃ t, step { opened .wordCount .read 0x08 0x40 with name := some Config.timestampPrescaler } = .next t :=
  ⟨fun _ => ⟨0x08, 0x40, rfl, rfl, by decide⟩, _, step_of_case (.evNone rfl rfl)⟩
theorem witness_TransitionsFollowTheTable (o : Opcode) :
    (collectingState o 0x84 0x10 1 1 [1, 2, 3]).Live ∧ (opened .wordCount o 0x84 0x10).Live :=
  ⟨live_last o, live_wordCount o⟩
theorem witness_OutputCountFollowsTheRule : ∃ t, exec (.cmdBadop 0x00) State.reset = .next t := ⟨_, rfl⟩
theorem witness_PrevNameFollowsResultsAndIsNeverRead : ∃ t, step State.reset = .next t :=
  ⟨_, step_of_case (.evNone rfl rfl)⟩
theorem witness_EmittedRecordsAreWellFormed :
    (after (byteAt 0x00 30 38) (opened .wordCount .read 0x84 0x01) (·.out)).isSome = true ∧
    after (byteAt 0xFF 0 8) State.reset (·.out) = some (some (Record.ce 0xFF (stamp 0) (stamp 8))) := ⟨by decide, rfl⟩
theorem witness_OutputPortsPresentTheRecord :
    (State.reset.emit (Record.ce 0xFF (stamp 0) (stamp 8))).out = some (Record.ce 0xFF (stamp 0) (stamp 8)) ∧
    State.reset.out = none := ⟨rfl, rfl⟩
theorem witness_EveryRecordLeavesTheFsmInCmd :
    after (byteAt 0x00 30 38) (opened .wordCount .write 0x84 0x01) (fun t => t.out != none) = some true := by decide
theorem witness_NothingHappensWithoutAnEvent : (collectingState .write 0x84 0x10 1 1 [1, 2, 3]).inp = [] := by decide
theorem witness_IllegalOpcodesGiveOneErrorEach :
    State.reset.st = .cmd ∧ ∀ p ∈ [byteAt 0x00 0 8, byteAt 0xFF 10 18],
      p.kind = .byteTransfer ∧ p.byte ≠ 0x41#8 ∧ p.byte ≠ 0x61#8 := by decide
theorem witness_LineAndUnusedPortFieldsAreNotRead :
    (byteAt 0x61 0 8).sameToRules ⟨.byteTransfer, stamp 0, stamp 8, .inbound, 0x61⟩ ∧
    (session .sessionStart 0).sameToRules ⟨.sessionStart, stamp 7, stamp 9, .inbound, 0x61⟩ :=
  ⟨⟨rfl, fun _ => ⟨rfl, rfl, rfl⟩⟩, rfl, fun h => by cases h⟩

/-- Samples that deliver a list of bytes. -/
def samples (bs : List Byte) : List PortSample := bs.map fun b => byteAt b 0 8

theorem delivers_samples (bs : List Byte) : delivers (samples bs) bs := by
  constructor
  · intro p hp
    obtain ⟨b, -, rfl⟩ := List.mem_map.1 hp
    rfl
  · simp [samples, byteAt, Function.comp_def]

theorem witness_WriteFrameIsReassembled :
    State.reset.st = .cmd ∧ State.reset.pbuf = [] ∧
    (([] : List Byte).length = 4 * (0x00#8).toNat ∧ delivers (samples [0x61, 0x84, 0x00, 0x00]) [0x61, 0x84, 0x00, 0x00]) ∧
    [1#8, 2#8, 3#8, 4#8].length = 4 * (0x01#8).toNat ∧
    delivers (samples [0x61, 0x84, 0x10, 0x01, 1, 2, 3, 4]) [0x61, 0x84, 0x10, 0x01, 1, 2, 3, 4] :=
  ⟨rfl, rfl, ⟨rfl, delivers_samples _⟩, by decide, delivers_samples _⟩
theorem witness_ReadFrameIsReassembled :
    State.reset.st = .cmd ∧ State.reset.pbuf = [] ∧
    (([] : List Byte).length = 4 * (0x00#8).toNat ∧ delivers (samples [0x41, 0x08, 0x40, 0x00]) [0x41, 0x08, 0x40, 0x00]) ∧
    (List.replicate 1020 0#8).length = 4 * (0xFF#8).toNat ∧
    delivers (samples (0x41 :: 0x08 :: 0x40 :: 0xFF :: List.replicate 1020 0))
      (0x41 :: 0x08 :: 0x40 :: 0xFF :: List.replicate 1020 0) :=
  ⟨rfl, rfl, ⟨rfl, delivers_samples _⟩, by rw [List.length_replicate]; decide, delivers_samples _⟩
theorem witness_UnfinishedFrameEmitsNothing :
    State.reset.st = .cmd ∧ State.reset.pbuf = [] ∧ [1#8, 2#8, 3#8, 4#8].length = 4 * (0x01#8).toNat ∧
    delivers (samples [0x61, 0x84, 0x10, 0x01, 1, 2, 3, 4]) [0x61, 0x84, 0x10, 0x01, 1, 2, 3, 4] ∧
    1 ≤ 7 ∧ 7 < (samples [0x61, 0x84, 0x10, 0x01, 1, 2, 3, 4]).length ∧ (session .sessionStart 0).kind = .sessionStart :=
  ⟨rfl, rfl, by decide, delivers_samples _, by decide, by decide, rfl⟩
theorem witness_PayloadCompletesExactlyAtRemZero (o : Opcode) :
    (collectingState o 0x84 0x10 1 1 [1, 2, 3]).Inv ∧ (collectingState o 0x84 0x10 1 1 [1, 2, 3]).collecting = true ∧
    (collectingState o 0x84 0x10 1 1 [1, 2, 3]).rem = some 1#10 ∧ ([] : List PortSample).length < (1#10).toNat ∧
    (∀ p ∈ samples [4], p.kind = .byteTransfer) ∧ (samples [4]).length = (1#10).toNat :=
  ⟨(live_last o).toInv, by cases o <;> rfl, rfl, by decide, (delivers_samples [4]).1, by decide⟩
theorem witness_BytesBringTheFsmBackToCmd :
    ({ State.reset with st := .regHigh, op := some .read, tOpStart := some (stamp 0) } : State).Live ∧
    FsmState.regHigh ≠ .cmd ∧
    (∀ p ∈ samples (List.replicate 1023 0xFF), p.kind = .byteTransfer) ∧
    1023 ≤ (samples (List.replicate 1023 0xFF)).length :=
  ⟨live_address.1, by decide, (delivers_samples _).1, by rw [samples, List.length_map, List.length_replicate]⟩

end Sys2Proof.Tests
end

section
/-! Proofs about the scope of the model (spec 00_scope): the step as selection and rule, hexadecimal text, timestamps as
mere labels, and runs from power-on. -/

namespace Sys2Proof.Machine

/-! ### The step is the decoded instruction's rule (00_scope R10) -/

/-- Once its word is formed and decoded, a step is its rule followed by moving past the event (42_frame_fsm R124). -/
theorem step_of_fetch_of_decode {s : State} {w : DecodeWord} {i : Instr} (hw : fetchWord s = .ok w)
    (hi : decode w = .ok i) : step s = pastEvent (exec i s) := by
  simp only [step, hw, hi]

/-- Settles O2: the step of a decoded word, with `pastEvent` written out. -/
theorem stepRunsTheDecodedInstruction : Obligations.StepRunsTheDecodedInstruction := by
  intro s w i hw hi
  rw [step_of_fetch_of_decode hw hi]
  cases exec i s <;> rfl

/-! ### Hexadecimal text (00_scope R9) -/

/-- `hexDigit` is the indexing of `HEXU` (00_scope R9). -/
theorem hexDigit_eq_getD (n : Nibble) : hexDigit n = "0123456789ABCDEF".toList.getD n.toNat '0' := by
  revert n
  decide

theorem toNat_highNibble (b : Byte) : (b.extractLsb' 4 4).toNat = b.toNat / 16 := by
  have hb := b.isLt
  simp only [BitVec.extractLsb'_toNat, Nat.shiftRight_eq_div_pow]
  omega

theorem toNat_lowNibble (b : Byte) : (b.extractLsb' 0 4).toNat = b.toNat % 16 := by
  simp only [BitVec.extractLsb'_toNat, Nat.shiftRight_zero, Nat.reducePow]

@[simp] theorem length_hex2 (b : Byte) : (hex2 b).length = 2 := rfl

theorem hexs_eq_flatMap (bs : List Byte) : hexs bs = bs.flatMap hex2 := by
  induction bs with
  | nil => rfl
  | cons b bs ih => rw [hexs, ih, List.flatMap_cons]

@[simp] theorem length_hexs (bs : List Byte) : (hexs bs).length = 2 * bs.length := by
  induction bs with
  | nil => rfl
  | cons b bs ih =>
    rw [hexs, List.length_append, length_hex2, ih, List.length_cons]
    omega

/-- Settles O26: each half of a byte indexes `HEXU`, and `hexs` concatenates the pairs. -/
theorem hexTextIsUpperCaseAndPadded : Obligations.HexTextIsUpperCaseAndPadded := by
  refine ⟨fun b => ?_, fun hi lo => rfl, fun bs => ⟨hexs_eq_flatMap bs, length_hexs bs⟩⟩
  rw [hex2, hexDigit_eq_getD, hexDigit_eq_getD, toNat_highNibble, toNat_lowNibble]

/-! ### Mapping the timestamps of a state, and the operations of the rules (00_scope R6, 70_reset_and_hazards R195) -/

@[simp] theorem resultRec_mapTime (f : TS → TS) (kind : RecKind) (hi lo : Byte) (n : Mnemonic) (p : List Byte)
    (ts te : TS) : (resultRec kind hi lo n p ts te).mapTime f = resultRec kind hi lo n p (f ts) (f te) := rfl

@[simp] theorem commandError_mapTime (f : TS → TS) (b : Byte) (t0 t1 : TS) :
    (commandError b t0 t1).mapTime f = commandError b (f t0) (f t1) := rfl

theorem State.mapTime_pinWriteStart (f : TS → TS) (t : TS) (s : State) :
    (s.pinWriteStart t).mapTime f = (s.mapTime f).pinWriteStart (f t) := by
  unfold State.pinWriteStart
  by_cases h : s.pbuf = [] <;> simp [State.mapTime, h]

theorem State.mapTime_pastEvent (f : TS → TS) (s : State) :
    s.pastEvent.mapTime f = (s.mapTime f).pastEvent := by
  simp [State.mapTime, State.pastEvent, List.map_tail]

@[simp] theorem mapResult_next (g : State → State) (s : State) : mapResult g (.next s) = .next (g s) := rfl

theorem mapResult_readReg {α : Type} (g : State → State) (r : Reg) (v : Option α) (k : α → Result) :
    mapResult g (readReg r v k) = readReg r v fun x => mapResult g (k x) := by
  cases v <;> rfl

theorem readReg_map {α : Type} (f : α → α) (r : Reg) (v : Option α) (k : α → Result) :
    readReg r (v.map f) k = readReg r v fun x => k (f x) := by
  cases v <;> rfl

theorem mapResult_pastEvent (f : TS → TS) (r : Result) :
    mapResult (State.mapTime f) (pastEvent r) = pastEvent (mapResult (State.mapTime f) r) := by
  cases r with
  | next s => exact congrArg _ (s.mapTime_pastEvent f)
  | fault _ => rfl
  | refused _ => rfl

/-- A completion reads the header and then leaves what `State.afterRecord` says (42_frame_fsm R138-R140). -/
theorem complete_eq (kind : RecKind) (ts te : TS) (s : State) :
    complete kind ts te s =
      readReg .addrHi s.addrHi fun hi => readReg .addrLo s.addrLo fun lo => readReg .name s.name fun n =>
        .next (s.afterRecord (resultRec kind hi lo n s.pbuf ts te) n) := rfl

theorem State.mapTime_afterRecord (f : TS → TS) (r : Record) (n : Mnemonic) (s : State) :
    (s.afterRecord r n).mapTime f = (s.mapTime f).afterRecord (r.mapTime f) n := by
  simp [State.mapTime, State.afterRecord]

theorem complete_mapTime (f : TS → TS) (kind : RecKind) (ts te : TS) (s : State) :
    complete kind (f ts) (f te) (s.mapTime f) = mapResult (State.mapTime f) (complete kind ts te s) := by
  simp only [complete_eq, mapResult_readReg, mapResult_next, State.mapTime_afterRecord, resultRec_mapTime]
  rfl

/-- A completion that first reads its start time (42_frame_fsm R131, R132, R134, R136). -/
theorem readReg_complete_mapTime (f : TS → TS) (r : Reg) (v : Option TS) (kind : RecKind) (te : TS) (s : State) :
    readReg r (v.map f) (fun ts => complete kind ts (f te) (s.mapTime f)) =
      mapResult (State.mapTime f) (readReg r v fun ts => complete kind ts te s) := by
  rw [readReg_map, mapResult_readReg]
  simp only [complete_mapTime]

theorem countByte_mapTime (f : TS → TS) (b : Byte) (s : State) :
    countByte b (s.mapTime f) = mapResult (State.mapTime f) (countByte b s) := by
  simp only [countByte, mapResult_readReg]
  rfl

/-! ### The port under the map -/

/-- A delivered event is mapped; the idle port, which no event stands behind, is not. -/
theorem State.port_mapTime {s : State} (h : s.inp ≠ []) (f : TS → TS) :
    (s.mapTime f).port = s.port.mapTime f := by
  obtain ⟨p, ps, hp⟩ := List.exists_cons_of_ne_nil h
  simp [State.port, State.mapTime, hp]

theorem State.startTime_mapTime {s : State} (h : s.inp ≠ []) (f : TS → TS) :
    (s.mapTime f).startTime = f s.startTime :=
  congrArg PortSample.t0 (State.port_mapTime h f)

theorem State.endTime_mapTime {s : State} (h : s.inp ≠ []) (f : TS → TS) :
    (s.mapTime f).endTime = f s.endTime :=
  congrArg PortSample.t1 (State.port_mapTime h f)

theorem State.port_kind_mapTime (f : TS → TS) (s : State) : (s.mapTime f).port.kind = s.port.kind := by
  cases h : s.inp <;> simp [State.port, State.mapTime, PortSample.mapTime, h]

theorem State.port_byte_mapTime (f : TS → TS) (s : State) : (s.mapTime f).port.byte = s.port.byte := by
  cases h : s.inp <;> simp [State.port, State.mapTime, PortSample.mapTime, h]

/-- The selection reads no timestamp (30_encoding R80). -/
theorem fetchWord_mapTime (f : TS → TS) (s : State) : fetchWord (s.mapTime f) = fetchWord s := by
  simp only [fetchWord, State.selectionGap, State.decodeWord, State.port_kind_mapTime, State.port_byte_mapTime]
  rfl

/-! ### Each rule copies timestamps (00_scope R6) -/

theorem headerOnly_mapTime {s : State} (h : s.inp ≠ []) (f : TS → TS) (kind : RecKind) :
    headerOnly kind (s.mapTime f) = mapResult (State.mapTime f) (headerOnly kind s) := by
  rw [headerOnly, State.endTime_mapTime h]
  exact readReg_complete_mapTime f .tOpStart s.tOpStart kind s.endTime
    { s with wc := some 0x00#8, rem := some 0#10, tHdrEnd := some s.endTime }

theorem openTransaction_mapTime {s : State} (h : s.inp ≠ []) (f : TS → TS) (o : Opcode) :
    openTransaction o (s.mapTime f) = mapResult (State.mapTime f) (openTransaction o s) := by
  rw [openTransaction, State.startTime_mapTime h]
  rfl

theorem execCmdBadop_mapTime {s : State} (h : s.inp ≠ []) (f : TS → TS) (b : Byte) :
    execCmdBadop b (s.mapTime f) = mapResult (State.mapTime f) (execCmdBadop b s) := by
  rw [execCmdBadop, State.startTime_mapTime h, State.endTime_mapTime h, ← commandError_mapTime]
  simp [execCmdBadop, reportError, State.emit, State.mapTime]

theorem execRegLowByte_mapTime (f : TS → TS) (b : Byte) (s : State) :
    execRegLowByte b (s.mapTime f) = mapResult (State.mapTime f) (execRegLowByte b s) := by
  rw [execRegLowByte, execRegLowByte, mapResult_readReg]
  rfl

theorem execWcNonzero_mapTime {s : State} (h : s.inp ≠ []) (f : TS → TS) (b : Byte) :
    execWcNonzero b (s.mapTime f) = mapResult (State.mapTime f) (execWcNonzero b s) := by
  rw [execWcNonzero, execWcNonzero, mapResult_readReg, State.endTime_mapTime h]
  rfl

theorem execDataReadLast_mapTime {s : State} (h : s.inp ≠ []) (f : TS → TS) (b : Byte) :
    execDataReadLast b (s.mapTime f) = mapResult (State.mapTime f) (execDataReadLast b s) := by
  rw [execDataReadLast, State.endTime_mapTime h]
  exact readReg_complete_mapTime f .tOpStart s.tOpStart .readResult s.endTime
    { s.bufAppend b with rem := some 0#10 }

theorem execDataWriteMore_mapTime {s : State} (h : s.inp ≠ []) (f : TS → TS) (b : Byte) :
    execDataWriteMore b (s.mapTime f) = mapResult (State.mapTime f) (execDataWriteMore b s) := by
  rw [execDataWriteMore, State.startTime_mapTime h, ← State.mapTime_pinWriteStart]
  exact countByte_mapTime f b _

theorem execDataWriteLast_mapTime {s : State} (h : s.inp ≠ []) (f : TS → TS) (b : Byte) :
    execDataWriteLast b (s.mapTime f) = mapResult (State.mapTime f) (execDataWriteLast b s) := by
  rw [execDataWriteLast, State.startTime_mapTime h, State.endTime_mapTime h, ← State.mapTime_pinWriteStart]
  exact readReg_complete_mapTime f .tWrStart (s.pinWriteStart s.startTime).tWrStart .writeResult s.endTime
    { (s.pinWriteStart s.startTime).bufAppend b with rem := some 0#10 }

/-- With an event at the port, every rule commutes with the map. -/
theorem exec_mapTime {s : State} (h : s.inp ≠ []) (f : TS → TS) (i : Instr) :
    exec i (s.mapTime f) = mapResult (State.mapTime f) (exec i s) := by
  cases i with
  | evNone => rfl
  | evSessionStart => rfl
  | evSessionEnd => rfl
  | cmdWrite => exact openTransaction_mapTime h f .write
  | cmdRead => exact openTransaction_mapTime h f .read
  | cmdBadop b => exact execCmdBadop_mapTime h f b
  | regHighByte b => rfl
  | regLowByte b => exact execRegLowByte_mapTime f b s
  | wcZeroRead => exact headerOnly_mapTime h f .readResult
  | wcZeroWrite => exact headerOnly_mapTime h f .writeResult
  | wcNonzero b => exact execWcNonzero_mapTime h f b
  | dataReadMore b => exact countByte_mapTime f b s
  | dataReadLast b => exact execDataReadLast_mapTime h f b
  | dataWriteMore b => exact execDataWriteMore_mapTime h f b
  | dataWriteLast b => exact execDataWriteLast_mapTime h f b

/-- The rule a step selects commutes with the map: with no event left that rule is EV_NONE, which reads no time. -/
theorem exec_decoded_mapTime (f : TS → TS) {s : State} {i : Instr} (hi : decode s.decodeWord = .ok i) :
    exec i (s.mapTime f) = mapResult (State.mapTime f) (exec i s) := by
  by_cases h : s.inp = []
  · rw [decode_of_idle (congrArg PortSample.kind (s.port_nil h))] at hi
    cases hi
    rfl
  · exact exec_mapTime h f i

/-- Settles O52: the selection does not see the map, and the selected rule commutes with it. -/
theorem timestampsAreOnlyCopied : Obligations.TimestampsAreOnlyCopied := by
  intro f s
  cases hw : fetchWord s with
  | error e => simp only [step, fetchWord_mapTime, hw, mapResult]
  | ok w =>
    obtain ⟨-, rfl⟩ := fetchWord_ok.1 hw
    cases hi : decode s.decodeWord with
    | error e => simp only [step, fetchWord_mapTime, hw, hi, mapResult]
    | ok i =>
      rw [step_of_fetch_of_decode (fetchWord_mapTime f s ▸ hw) hi, step_of_fetch_of_decode hw hi,
        exec_decoded_mapTime f hi, mapResult_pastEvent]

/-! ### Which states meet the invariants (10_state R37) -/

/-- In CMD with nothing written, item 8 is all there is to the invariants. -/
theorem State.Live.of_untouched {s : State} (hst : s.st = .cmd) (hu : s.Untouched) : s.Live where
  opened h := absurd hst h
  noPayload _ := by simp [hu.pbuf]
  addressed h := by simp [State.hasAddress, hst] at h
  counted h := by simp [State.collecting, hst] at h
  reading h := by simp [hst] at h
  writing h := by simp [hst] at h
  pinned h := by simp [hst] at h
  bounded := by simp [hu.pbuf, Memory.wf]
  closed _ := hu
  highByte h := by simp [hst] at h

/-- `Discard()` leaves nothing written (42_frame_fsm R140). -/
theorem State.untouched_discard (s : State) : s.discard.Untouched :=
  ⟨rfl, rfl, rfl, rfl, rfl, rfl, rfl, rfl, rfl, rfl⟩

theorem State.live_reset : State.reset.Live :=
  .of_untouched rfl { State.reset.untouched_discard with }

/-- A completed Transaction leaves nothing written (42_frame_fsm R140). -/
theorem State.live_afterRecord (r : Record) (n : Mnemonic) (s : State) :
    (s.afterRecord r n).pastEvent.Live :=
  .of_untouched rfl { s.untouched_discard with }

/-- The invariants are about registers: the ports and the host's side of them are free. -/
theorem State.Inv.with_ports {s : State} (h : s.Inv) (o : Option Record) (i : List PortSample) (k : List Record) :
    ({ s with out := o, inp := i, taken := k } : State).Inv where
  opened := h.opened
  noPayload := h.noPayload
  addressed := h.addressed
  counted := h.counted
  reading := h.reading
  writing := h.writing
  pinned := h.pinned
  bounded := h.bounded
  closed hc := { h.closed hc with }

theorem State.Live.present {s : State} (h : s.Live) (p : PortSample) : (s.present p).Live :=
  { h.toInv.with_ports s.out (p :: s.inp) s.taken with highByte := h.highByte }

/-- In a header state the payload items have nothing to say, and the buffer is empty. -/
theorem State.Inv.of_header {s : State} (hst : s.st = .regHigh ∨ s.st = .regLow ∨ s.st = .wordCount)
    (hbuf : s.pbuf = []) (hop : s.op.isSome) (hts : s.tOpStart.isSome)
    (haddr : s.hasAddress → s.addrHi.isSome ∧ s.addrLo.isSome ∧ s.name.isSome) : s.Inv where
  opened _ := ⟨hop, hts⟩
  noPayload _ := by simp [hbuf]
  addressed := haddr
  counted h := by rcases hst with e | e | e <;> simp [State.collecting, e] at h
  reading h := by simp [h] at hst
  writing h := by simp [h] at hst
  pinned h := by simp [h] at hst
  bounded := by simp [hbuf, Memory.wf]
  closed h := by simp [h] at hst

/-- Outside the payload states the buffer is empty (10_state R37 item 2). -/
theorem State.Inv.pbuf_nil {s : State} (h : s.Inv) (hc : s.collecting = false) : s.pbuf = [] :=
  List.eq_nil_of_length_eq_zero (h.noPayload hc)

theorem payloadState_eq_dataRead {o : Opcode} : payloadState o = .dataRead ↔ o = .read := by
  cases o <;> simp [payloadState]

theorem payloadState_eq_dataWrite {o : Opcode} : payloadState o = .dataWrite ↔ o = .write := by
  cases o <;> simp [payloadState]

theorem payloadState_ne_cmd (o : Opcode) : payloadState o ≠ .cmd := by cases o <;> simp [payloadState]

/-- The word-count byte enters a payload state with all `4N` bytes still to come (42_frame_fsm R130). -/
theorem State.Inv.wcNonzero {s : State} (h : s.Inv) {o : Opcode} {b : Byte} (hst : s.st = .wordCount)
    (hop : s.op = some o) (hb : b ≠ 0x00#8) (te : Option TS) (out : Option Record) (inp : List PortSample) :
    ({ s with wc := some b, rem := some (payloadCount b), tHdrEnd := te, st := payloadState o, out := out,
              inp := inp } : State).Inv := by
  have hbuf : s.pbuf = [] := h.pbuf_nil (by simp [State.collecting, hst])
  have hn : 1 ≤ b.toNat := Nat.one_le_iff_ne_zero.2 fun e => hb (BitVec.eq_of_toNat_eq e)
  have hopen := h.opened (by simp [hst])
  have haddr := h.addressed (by simp [State.hasAddress, hst])
  have hrem := payloadCount_toNat b
  exact
    { opened := fun _ => hopen
      noPayload := fun _ => by simp [hbuf]
      addressed := fun _ => haddr
      counted := fun _ => ⟨_, b, rfl, rfl, by omega, by have := b.isLt; omega, by simp [hbuf, hrem], hn⟩
      reading := fun hs => payloadState_eq_dataRead.1 hs ▸ hop
      writing := fun hs => payloadState_eq_dataWrite.1 hs ▸ hop
      pinned := fun _ (hp : 1 ≤ s.pbuf.length) => by simp [hbuf] at hp
      bounded := by simp [hbuf, Memory.wf]
      closed := fun hs => absurd hs (payloadState_ne_cmd o) }

/-- A payload byte that is not the last moves one byte from `rem` to the buffer (42_frame_fsm R133, R135): their sum
stays `4N`. In DATA_WRITE the byte also finds or sets the write's start time. -/
theorem State.Inv.count {s : State} (h : s.Inv) {r : RemCount} (hc : s.collecting) (hr : s.rem = some r)
    (hlast : r ≠ 1#10) (b : Byte) (tw : Option TS) (htw : s.st = .dataWrite → tw.isSome) (out : Option Record)
    (inp : List PortSample) :
    ({ s with tWrStart := tw, pbuf := s.pbuf ++ [b], rem := some (remPred s.plen r), out := out,
              inp := inp } : State).Inv := by
  obtain ⟨r', n, hr', hwc, hpos, -, hsum, hn⟩ := h.counted hc
  replace hsum : s.pbuf.length + r'.toNat = 4 * n.toNat := hsum
  obtain rfl : r = r' := by simpa [hr] using hr'
  have hlast' : r.toNat ≠ 1 := fun e => hlast (BitVec.eq_of_toNat_eq e)
  have hrem := remPred_toNat s.plen r hpos
  have hbyte := n.isLt
  exact
    { opened := h.opened
      noPayload := fun hn => absurd hc (by simpa [State.collecting] using hn)
      addressed := h.addressed
      counted := fun _ => ⟨_, n, rfl, hwc, by omega, by omega, by simp [State.plen, hrem]; omega, hn⟩
      reading := h.reading
      writing := h.writing
      pinned := fun hs _ => htw hs
      bounded := by simp [Memory.wf]; omega
      closed := fun hs => by simp [State.collecting, show s.st = .cmd from hs] at hc }

/-! ### Every step keeps the invariants, and in a live state there is one (10_state R37) -/

/-- An open Transaction's opcode and start time (10_state R37 item 2). -/
theorem State.Inv.exists_opened {s : State} (h : s.Inv) (hst : s.st ≠ .cmd) :
    ∃ o ts, s.op = some o ∧ s.tOpStart = some ts := by
  simpa only [Option.isSome_iff_exists, exists_and_left, exists_and_right] using h.opened hst

/-- The header of a received address (10_state R37 item 3). -/
theorem State.Inv.exists_addressed {s : State} (h : s.Inv) (ha : s.hasAddress) :
    ∃ hi lo n, s.addrHi = some hi ∧ s.addrLo = some lo ∧ s.name = some n := by
  simpa only [Option.isSome_iff_exists, exists_and_left, exists_and_right] using h.addressed ha

/-- A byte of a WRITE's payload leaves the start time pinned (10_state R37 item 6). -/
theorem State.Inv.pinned_by_byte {s : State} (h : s.Inv) (hst : s.st = .dataWrite) (t : TS) :
    (if s.pbuf = [] then some t else s.tWrStart).isSome := by
  by_cases hbuf : s.pbuf = []
  · simp [hbuf]
  · simpa [hbuf] using h.pinned hst (List.length_pos_iff.2 hbuf)

theorem StepCase.inv {s t : State} (h : s.Inv) (hc : StepCase s t) : t.Inv := by
  cases hc with
  | evNone _ e => exact e ▸ h.with_ports _ _ _
  | evSessionEnd _ e => exact e ▸ h.with_ports _ _ _
  | cmdBadop _ _ _ _ e => exact e ▸ h.with_ports _ _ _
  | evSessionStart _ e =>
    subst e
    exact State.Live.toInv (.of_untouched rfl { s.untouched_discard with })
  | cmdWrite _ f _ e =>
    exact e ▸ .of_header (.inl rfl) (h.closed f).pbuf rfl rfl nofun
  | cmdRead _ f _ e =>
    exact e ▸ .of_header (.inl rfl) (h.closed f).pbuf rfl rfl nofun
  | regHighByte _ f e =>
    obtain ⟨hop, hts⟩ := h.opened (by simp [f])
    exact e ▸ .of_header (.inr (.inl rfl)) (h.pbuf_nil (by simp [State.collecting, f])) hop hts nofun
  | regLowByte hi _ f e1 e =>
    obtain ⟨hop, hts⟩ := h.opened (by simp [f])
    exact e ▸ .of_header (.inr (.inr rfl)) (h.pbuf_nil (by simp [State.collecting, f])) hop hts
      fun _ => ⟨by simp [e1], rfl, rfl⟩
  | wcNonzero o _ f b a e => exact e ▸ h.wcNonzero f a b _ _ _
  | dataReadMore r _ f a a' e =>
    exact e ▸ h.count (by simp [State.collecting, f]) a a' _ _ (by simp [f]) _ _
  | dataWriteMore r _ f a a' e =>
    exact e ▸ h.count (by simp [State.collecting, f]) a a' _ _ (fun hs => h.pinned_by_byte hs _) _ _
  | wcZeroRead _ _ _ _ _ _ _ _ _ _ _ _ e => exact e ▸ (State.live_afterRecord _ _ _).toInv
  | wcZeroWrite _ _ _ _ _ _ _ _ _ _ _ _ e => exact e ▸ (State.live_afterRecord _ _ _).toInv
  | dataReadLast _ _ _ _ _ _ _ _ _ _ _ e => exact e ▸ (State.live_afterRecord _ _ _).toInv
  | dataWriteLast _ _ _ _ _ _ _ _ _ _ _ e => exact e ▸ (State.live_afterRecord _ _ _).toInv

/-- REG_LOW is entered by the byte that writes `addr_hi` (42_frame_fsm R128), and kept only by steps that change no
register. -/
theorem StepCase.highByte {s t : State} (h : s.Live) (hc : StepCase s t) (ht : t.st = .regLow) : t.addrHi.isSome := by
  cases hc with
  | evNone _ e => subst e; exact h.highByte ht
  | evSessionEnd _ e => subst e; exact h.highByte ht
  | regHighByte _ _ e => subst e; rfl
  | cmdBadop _ f _ _ e => simp [e, f] at ht
  | wcNonzero o _ _ _ _ e => cases o <;> simp [e, payloadState] at ht
  | dataReadMore _ _ f _ _ e => simp [e, f] at ht
  | dataWriteMore _ _ f _ _ e => simp [e, f] at ht
  | evSessionStart _ e => simp [e] at ht
  | cmdWrite _ _ _ e => simp [e] at ht
  | cmdRead _ _ _ e => simp [e] at ht
  | regLowByte _ _ _ _ e => simp [e] at ht
  | wcZeroRead _ _ _ _ _ _ _ _ _ _ _ _ e => simp [e, State.afterRecord] at ht
  | wcZeroWrite _ _ _ _ _ _ _ _ _ _ _ _ e => simp [e, State.afterRecord] at ht
  | dataReadLast _ _ _ _ _ _ _ _ _ _ _ e => simp [e, State.afterRecord] at ht
  | dataWriteLast _ _ _ _ _ _ _ _ _ _ _ e => simp [e, State.afterRecord] at ht

theorem StepCase.live {s t : State} (h : s.Live) (hc : StepCase s t) : t.Live :=
  { hc.inv h.toInv with highByte := hc.highByte h }

/-- In a live state some row applies: every register its rule reads is written (10_state R37, consequence). -/
theorem State.Live.exists_stepCase {s : State} (h : s.Live) : ∃ t, StepCase s t := by
  cases hk : s.port.kind with
  | none => exact ⟨_, .evNone hk rfl⟩
  | sessionStart => exact ⟨_, .evSessionStart hk rfl⟩
  | sessionEnd => exact ⟨_, .evSessionEnd hk rfl⟩
  | byteTransfer =>
    cases hs : s.st with
    | cmd =>
      by_cases hw : s.port.byte = 0x61#8
      · exact ⟨_, .cmdWrite hk hs hw rfl⟩
      by_cases hr : s.port.byte = 0x41#8
      · exact ⟨_, .cmdRead hk hs hr rfl⟩
      · exact ⟨_, .cmdBadop hk hs hr hw rfl⟩
    | regHigh => exact ⟨_, .regHighByte hk hs rfl⟩
    | regLow =>
      obtain ⟨hi, hhi⟩ := Option.isSome_iff_exists.1 (h.highByte hs)
      exact ⟨_, .regLowByte hi hk hs hhi rfl⟩
    | wordCount =>
      obtain ⟨o, ts, hop, hts⟩ := h.exists_opened (by simp [hs])
      by_cases hb : s.port.byte = 0x00#8
      · obtain ⟨hi, lo, n, hhi, hlo, hn⟩ := h.exists_addressed (by simp [State.hasAddress, hs])
        cases o with
        | read => exact ⟨_, .wcZeroRead ts hi lo n hk hs hb hop hts hhi hlo hn rfl⟩
        | write => exact ⟨_, .wcZeroWrite ts hi lo n hk hs hb hop hts hhi hlo hn rfl⟩
      · exact ⟨_, .wcNonzero o hk hs hb hop rfl⟩
    | dataRead =>
      obtain ⟨-, ts, -, hts⟩ := h.exists_opened (by simp [hs])
      obtain ⟨hi, lo, n, hhi, hlo, hn⟩ := h.exists_addressed (by simp [State.hasAddress, hs])
      obtain ⟨r, -, hr, -⟩ := h.counted (by simp [State.collecting, hs])
      by_cases hlast : r = 1#10
      · exact ⟨_, .dataReadLast ts hi lo n hk hs (hlast ▸ hr) hts hhi hlo hn rfl⟩
      · exact ⟨_, .dataReadMore r hk hs hr hlast rfl⟩
    | dataWrite =>
      obtain ⟨ts, hts⟩ := Option.isSome_iff_exists.1 (h.pinned_by_byte hs s.port.t0)
      obtain ⟨hi, lo, n, hhi, hlo, hn⟩ := h.exists_addressed (by simp [State.hasAddress, hs])
      obtain ⟨r, -, hr, -⟩ := h.counted (by simp [State.collecting, hs])
      by_cases hlast : r = 1#10
      · exact ⟨_, .dataWriteLast ts hi lo n hk hs (hlast ▸ hr) hts hhi hlo hn rfl⟩
      · exact ⟨_, .dataWriteMore r hk hs hr hlast rfl⟩

theorem State.Live.exists_step {s : State} (h : s.Live) : ∃ t, step s = .next t ∧ t.Live := by
  obtain ⟨t, hc⟩ := h.exists_stepCase
  exact ⟨t, step_of_case hc, hc.live h⟩

/-! ### Runs (00_scope R10, 70_reset_and_hazards R198) -/

/-- A property under which every event is answered, and which the answer keeps, holds to the end of every run. -/
theorem runEvents_of_react {P : State → Prop} (hreact : ∀ p s, P s → ∃ t, react p s = .next t ∧ P t)
    (ps : List PortSample) {s : State} (hs : P s) : ∃ t, runEvents ps s = .next t ∧ P t := by
  induction ps generalizing s with
  | nil => exact ⟨s, rfl, hs⟩
  | cons p ps ih =>
    obtain ⟨t, hr, ht⟩ := hreact p s hs
    simpa only [runEvents, hr] using ih ht

theorem State.Live.exists_runEvents {s : State} (h : s.Live) (ps : List PortSample) :
    ∃ t, runEvents ps s = .next t ∧ t.Live :=
  runEvents_of_react (fun p _ hs => (hs.present p).exists_step) ps h

/-- Settles O41: the power-on state is live, and a run keeps that. -/
theorem everyRunFromPowerOnMeetsTheInvariants : Obligations.EveryRunFromPowerOnMeetsTheInvariants := by
  intro ps
  obtain ⟨t, hrun, hlive⟩ := State.live_reset.exists_runEvents ps
  exact ⟨t, hrun, hlive.toInv⟩

end Sys2Proof.Machine
end

section
/-! Proofs about the registers and ports of the state (spec 10_state): the name of a received address, the payload
counter, and the output ports. -/

namespace Sys2Proof.Machine

/-! ### The name of a received address (10_state R25) -/

theorem State.Named.of_no_address {s : State} (h : s.hasAddress = false) : s.Named :=
  fun ha => absurd ha (by simp [h])

/-- Only the header of a received address matters. -/
theorem State.Named.of_same_header {s t : State} (h : s.Named) (ha : s.hasAddress) (hhi : t.addrHi = s.addrHi)
    (hlo : t.addrLo = s.addrLo) (hname : t.name = s.name) : t.Named :=
  fun _ => hhi ▸ hlo ▸ hname ▸ h ha

/-- The name is set by the byte that completes the address (42_frame_fsm R129); every other step keeps the header of a
received address, or leaves the states that have one. -/
theorem StepCase.named {s t : State} (h : s.Named) (hc : StepCase s t) : t.Named := by
  cases hc with
  | regLowByte hi _ _ e1 e => subst e; exact fun _ => ⟨hi, s.port.byte, e1, rfl, rfl⟩
  | evNone _ e => subst e; exact h
  | evSessionEnd _ e => subst e; exact h
  | cmdBadop _ _ _ _ e => subst e; exact h
  | wcNonzero _ _ f _ _ e =>
    subst e; exact h.of_same_header (by simp [State.hasAddress, f]) rfl rfl rfl
  | dataReadMore _ _ f _ _ e =>
    subst e; exact h.of_same_header (by simp [State.hasAddress, f]) rfl rfl rfl
  | dataWriteMore _ _ f _ _ e =>
    subst e; exact h.of_same_header (by simp [State.hasAddress, f]) rfl rfl rfl
  | evSessionStart _ e => subst e; exact .of_no_address rfl
  | cmdWrite _ _ _ e => subst e; exact .of_no_address rfl
  | cmdRead _ _ _ e => subst e; exact .of_no_address rfl
  | regHighByte _ _ e => subst e; exact .of_no_address rfl
  | wcZeroRead _ _ _ _ _ _ _ _ _ _ _ _ e => subst e; exact .of_no_address rfl
  | wcZeroWrite _ _ _ _ _ _ _ _ _ _ _ _ e => subst e; exact .of_no_address rfl
  | dataReadLast _ _ _ _ _ _ _ _ _ _ _ e => subst e; exact .of_no_address rfl
  | dataWriteLast _ _ _ _ _ _ _ _ _ _ _ e => subst e; exact .of_no_address rfl

/-- Settles O42: at power-on there is no address, and no step breaks the name of one. -/
theorem nameIsTheDirectorysAnswer : Obligations.NameIsTheDirectorysAnswer :=
  ⟨.of_no_address rfl, fun _ _ h hstep => (step_cases hstep).named h⟩

/-! ### The payload counter (10_state R27, 20_memory R54) -/

theorem State.collecting_iff {s : State} : s.collecting ↔ s.st = .dataRead ∨ s.st = .dataWrite := by
  cases hs : s.st <;> simp [State.collecting, hs]

/-- `t` is `s` after the payload bytes `bs`, with the Transaction still open. How far `rem` has come down follows from
the invariants, which relate it to `wc` and the buffer (10_state R37 item 4). -/
structure State.Counted (s : State) (bs : List Byte) (t : State) : Prop where
  inv : t.Inv
  st : t.st = s.st
  wc : t.wc = s.wc
  pbuf : t.pbuf = s.pbuf ++ bs
  taken : t.taken = s.taken

theorem State.Counted.nil {s : State} (h : s.Inv) : s.Counted [] s :=
  ⟨h, rfl, rfl, (List.append_nil _).symm, rfl⟩

theorem State.Counted.append {s t u : State} {bs cs : List Byte} (h : s.Counted bs t) (h' : t.Counted cs u) :
    s.Counted (bs ++ cs) u where
  inv := h'.inv
  st := h'.st.trans h.st
  wc := h'.wc.trans h.wc
  pbuf := by rw [h'.pbuf, h.pbuf, List.append_assoc]
  taken := h'.taken.trans h.taken

theorem State.Counted.collecting {s t : State} {bs : List Byte} (h : s.Counted bs t) (hc : s.collecting) :
    t.collecting := by
  simpa only [State.collecting_iff, h.st] using hc

/-- Each payload byte has brought `rem` down by one: buffer and `rem` together are `4N` before and after. -/
theorem State.Counted.exists_rem {s t : State} {bs : List Byte} {r : RemCount} (h : s.Counted bs t) (hs : s.Inv)
    (hc : s.collecting) (hr : s.rem = some r) : ∃ r', t.rem = some r' ∧ r'.toNat + bs.length = r.toNat := by
  obtain ⟨r₀, n, hr₀, hwc, -, -, hsum, -⟩ := hs.counted hc
  obtain ⟨r', n', hr', hwc', -, -, hsum', -⟩ := h.inv.counted (h.collecting hc)
  obtain rfl : r = r₀ := by simpa [hr] using hr₀
  obtain rfl : n = n' := by simpa [h.wc, hwc] using hwc'
  have hlen : t.plen = s.plen + bs.length := by simp [State.plen, h.pbuf]
  exact ⟨r', hr', by omega⟩

/-- A payload byte that is not the last leaves the Transaction open (42_frame_fsm R133, R135). -/
theorem State.Inv.exists_react_counted {s : State} (h : s.Inv) {r : RemCount} (hc : s.collecting)
    (hr : s.rem = some r) (hlast : r ≠ 1#10) {p : PortSample} (hk : p.kind = .byteTransfer) :
    ∃ t, react p s = .next t ∧ s.Counted [p.byte] t := by
  rcases State.collecting_iff.1 hc with hs | hs
  · exact ⟨_, step_of_case (.dataReadMore (s := s.present p) r hk hs hr hlast rfl),
      h.count hc hr hlast _ _ (by simp [hs]) _ _, rfl, rfl, rfl, rfl⟩
  · exact ⟨_, step_of_case (.dataWriteMore (s := s.present p) r hk hs hr hlast rfl),
      h.count hc hr hlast _ _ (fun _ => h.pinned_by_byte hs _) _ _, rfl, rfl, rfl, rfl⟩

/-- The last payload byte completes the Transaction with the whole buffer (42_frame_fsm R134, R136). -/
theorem State.Inv.exists_react_afterRecord {s : State} (h : s.Inv) (hc : s.collecting) (hr : s.rem = some 1#10)
    {p : PortSample} (hk : p.kind = .byteTransfer) :
    ∃ x n, react p s = .next (s.afterRecord x n) ∧ x.payload = s.pbuf ++ [p.byte] := by
  obtain ⟨hi, lo, n, hhi, hlo, hn⟩ := h.exists_addressed (by
    rcases State.collecting_iff.1 hc with hs | hs <;> simp [State.hasAddress, hs])
  rcases State.collecting_iff.1 hc with hs | hs
  · obtain ⟨-, ts, -, hts⟩ := h.exists_opened (by simp [hs])
    exact ⟨_, n, step_of_case (.dataReadLast (s := s.present p) ts hi lo n hk hs hr hts hhi hlo hn rfl), rfl⟩
  · obtain ⟨ts, hts⟩ := Option.isSome_iff_exists.1 (h.pinned_by_byte hs p.t0)
    exact ⟨_, n, step_of_case (.dataWriteLast (s := s.present p) ts hi lo n hk hs hr hts hhi hlo hn rfl), rfl⟩

/-- Fewer bytes than `rem` leave the Transaction open, with all of them counted. -/
theorem State.Inv.exists_runEvents_counted {ps : List PortSample} {s : State} {r : RemCount} (h : s.Inv)
    (hc : s.collecting) (hr : s.rem = some r) (hk : ∀ p ∈ ps, p.kind = .byteTransfer) (hlt : ps.length < r.toNat) :
    ∃ t, runEvents ps s = .next t ∧ s.Counted (ps.map PortSample.byte) t := by
  induction ps generalizing s r with
  | nil => exact ⟨s, rfl, .nil h⟩
  | cons p ps ih =>
    obtain ⟨hkp, hkps⟩ := List.forall_mem_cons.1 hk
    rw [List.length_cons] at hlt
    have hlast : r ≠ 1#10 := by rintro rfl; simp at hlt
    obtain ⟨t, hreact, ht⟩ := h.exists_react_counted hc hr hlast hkp
    obtain ⟨r', hr', hrem⟩ := ht.exists_rem h hc hr
    rw [List.length_singleton] at hrem
    obtain ⟨u, hrun, hu⟩ := ih ht.inv (ht.collecting hc) hr' hkps (by omega)
    exact ⟨u, by simpa only [runEvents, hreact] using hrun, ht.append hu⟩

/-- Exactly `rem` bytes: the last one finds `rem = 1` and completes the Transaction. -/
theorem State.Inv.exists_runEvents_complete {ps : List PortSample} {s : State} {r : RemCount} (h : s.Inv)
    (hc : s.collecting) (hr : s.rem = some r) (hk : ∀ p ∈ ps, p.kind = .byteTransfer) (hlen : ps.length = r.toNat) :
    ∃ t x, runEvents ps s = .next t ∧ t.st = .cmd ∧ t.taken = s.taken ++ [x] ∧
      x.payload = s.pbuf ++ ps.map PortSample.byte := by
  obtain ⟨r₀, -, hr₀, -, hpos, -⟩ := h.counted hc
  obtain rfl : r = r₀ := by simpa [hr] using hr₀
  have hne : ps ≠ [] := List.ne_nil_of_length_pos (by omega)
  obtain ⟨qs, p, rfl⟩ := (List.eq_nil_or_concat' ps).resolve_left hne
  obtain ⟨hkqs, hkp⟩ := List.forall_mem_append.1 hk
  rw [List.length_append, List.length_singleton] at hlen
  obtain ⟨t, hrun, ht⟩ := h.exists_runEvents_counted hc hr hkqs (by omega)
  obtain ⟨r', hr', hrem⟩ := ht.exists_rem h hc hr
  rw [List.length_map] at hrem
  obtain rfl : r' = 1#10 := BitVec.eq_of_toNat_eq (by simp; omega)
  obtain ⟨x, n, hreact, hx⟩ := ht.inv.exists_react_afterRecord (ht.collecting hc) hr' (hkp p (by simp))
  refine ⟨t.afterRecord x n, x, ?_, rfl, ?_, ?_⟩
  · rw [runEvents_append _ _ _ _ hrun]
    simp only [runEvents, hreact]
  · rw [← ht.taken]; rfl
  · rw [hx, ht.pbuf, List.map_append, List.append_assoc]; rfl

/-- Settles O56: all bytes but the last are counted, the last one completes. -/
theorem payloadCompletesExactlyAtRemZero : Obligations.PayloadCompletesExactlyAtRemZero := by
  intro s r ps h hc hr hk
  refine ⟨fun hlt => ?_, h.exists_runEvents_complete hc hr hk⟩
  obtain ⟨t, hrun, ht⟩ := h.exists_runEvents_counted hc hr hk hlt
  exact ⟨t, hrun, ht.st, ht.taken, ht.pbuf⟩

/-! ### The output ports (10_state R36, 30_encoding R83, R84) -/

theorem Record.addrValid_eq (r : Record) : r.addrValid = decide (r.addr ≠ none) := by
  cases h : r.addr <;> simp [Record.addrValid, h]

theorem Record.idValid_eq (r : Record) : r.idValid = decide (r.id ≠ none) := by
  cases h : r.id <;> simp [Record.idValid, h]

/-- With a record out, every port presents its field (30_encoding R84). -/
theorem State.outPorts_of_some {s : State} {r : Record} (h : s.out = some r) :
    s.outPorts =
      { recValid := true, recKind := some r.kind.code, recAddrValid := some r.addrValid, recAddr := r.addr
        recAddrKey := r.key, recName := some r.name, recPayload := some r.payload, recPayloadHex := some r.payloadHex
        recMsg := some r.msg, recTStart := some r.tStart, recTEnd := some r.tEnd, recIdValid := some r.idValid
        recId := r.id, prevName := s.prevName } := by
  simp [State.outPorts, State.recValid, h]

/-- With no record out, only `rec_valid` and `prev_name` have a value (log entry 4). -/
theorem State.outPorts_of_none {s : State} (h : s.out = none) :
    s.outPorts =
      { recValid := false, recKind := none, recAddrValid := none, recAddr := none, recAddrKey := none, recName := none
        recPayload := none, recPayloadHex := none, recMsg := none, recTStart := none, recTEnd := none
        recIdValid := none, recId := none, prevName := s.prevName } := by
  simp [State.outPorts, State.recValid, h]

/-- Settles O47: port by port, with a record and without one. -/
theorem outputPortsPresentTheRecord : Obligations.OutputPortsPresentTheRecord := by
  refine fun s => ⟨rfl, rfl, fun r hr => ?_, fun hn => ?_⟩
  · rw [State.outPorts_of_some hr]
    refine ⟨?_, congrArg some r.addrValid_eq, rfl, rfl, rfl, rfl, rfl, rfl, rfl, rfl, congrArg some r.idValid_eq, rfl⟩
    cases r.kind <;> rfl
  · rw [State.outPorts_of_none hn]
    exact ⟨rfl, rfl, rfl, rfl, rfl, rfl, rfl, rfl, rfl, rfl, rfl, rfl⟩

end Sys2Proof.Machine
end

section
/-! Proofs about the order of steps (spec 20_memory): one event to a step, and what a record leaves behind. -/

namespace Sys2Proof.Machine

/-! ### One event to a step, and CMD after a record (20_memory R62, 42_frame_fsm R145) -/

/-- Every row moves past its own event only (20_memory R62). -/
theorem StepCase.inp {s t : State} (hc : StepCase s t) : t.inp = s.inp.tail := by
  cases hc <;> subst t <;> rfl

/-- A row other than CMD_BADOP and the four that complete a Transaction is silent; CMD_BADOP stays in CMD, and a
completion returns to it (42_frame_fsm R141, R145). -/
theorem StepCase.out_eq_none_or_cmd {s t : State} (hc : StepCase s t) : t.out = none ∨ t.st = .cmd := by
  cases hc with
  | cmdBadop _ f _ _ e => subst e; exact .inr f
  | wcZeroRead _ _ _ _ _ _ _ _ _ _ _ _ e | wcZeroWrite _ _ _ _ _ _ _ _ _ _ _ _ e
  | dataReadLast _ _ _ _ _ _ _ _ _ _ _ e | dataWriteLast _ _ _ _ _ _ _ _ _ _ _ e => subst e; exact .inr rfl
  | evNone _ e | evSessionStart _ e | evSessionEnd _ e | cmdWrite _ _ _ e | cmdRead _ _ _ e | regHighByte _ _ e
  | regLowByte _ _ _ _ e | wcNonzero _ _ _ _ _ e | dataReadMore _ _ _ _ _ e | dataWriteMore _ _ _ _ _ e =>
    subst e; exact .inl rfl

/-- Settles O48: a step that is not silent ends in CMD. -/
theorem everyRecordLeavesTheFsmInCmd : Obligations.EveryRecordLeavesTheFsmInCmd := by
  intro s t hstep
  have hc := step_cases hstep
  exact ⟨hc.inp, hc.out_eq_none_or_cmd.resolve_left⟩

end Sys2Proof.Machine
end

section
/-! Proofs about the encodings (spec 30_encoding): the decode words of instructions, the codes on the ports, payload hex
strings, the fields of emitted records, and the port fields that no rule reads. -/

namespace Sys2Proof

/-! ### Decode words (30_encoding R80, R81) -/

/-- Settles O20: the kind, the state and the two bits of an encoded word select the instruction's row. For the two rows
of priority 2, well-formedness says that no row of priority 1 takes the operand. -/
theorem decodeInvertsEncode : Obligations.DecodeInvertsEncode := by
  intro i hwf
  cases i with
  | evNone => exact decode_none ..
  | evSessionStart => exact decode_sessionStart ..
  | evSessionEnd => exact decode_sessionEnd ..
  | cmdWrite => exact decode_cmd ..
  | cmdRead => exact decode_cmd ..
  | cmdBadop b =>
    have hb : b ≠ 0x41#8 ∧ b ≠ 0x61#8 := by simpa [Instr.WellFormed, Instr.wf] using hwf
    rw [encode, decode_cmd, if_neg hb.2, if_neg hb.1]
  | regHighByte b => exact decode_regHigh ..
  | regLowByte b => exact decode_regLow ..
  | wcZeroRead => exact decode_wordCount ..
  | wcZeroWrite => exact decode_wordCount ..
  | wcNonzero b =>
    have hb : b ≠ 0x00#8 := by simpa [Instr.WellFormed, Instr.wf] using hwf
    rw [encode, decode_wordCount, if_neg hb]
  | dataReadMore b => exact decode_dataRead ..
  | dataReadLast b => exact decode_dataRead ..
  | dataWriteMore b => exact decode_dataWrite ..
  | dataWriteLast b => exact decode_dataWrite ..

/-- Settles O19: the words with their state, the bits `op = WRITE` and `rem = 1`, and their byte named. -/
theorem specDecodeWordsDecodeToTheirRows : Obligations.SpecDecodeWordsDecodeToTheirRows :=
  ⟨decode_sessionStart 0b000#3 false false 0x00#8, decode_sessionEnd 0b101#3 false false 0x00#8,
    decode_none 0b010#3 false false 0x00#8, decode_cmd false false 0x61#8, decode_cmd false false 0xFF#8,
    decode_regHigh true false 0x08#8, decode_wordCount true false 0x00#8, decode_wordCount true false 0x01#8,
    decode_dataWrite true true 0x44#8, decode_dataRead false false 0xDE#8⟩

end Sys2Proof

namespace Sys2Proof.Machine

/-! ### Events and codes on the ports (30_encoding R77-R79) -/

/-- The ports hold every field that an event has. -/
@[simp] theorem Event.toEvent_toPort (e : Event) : e.toPort.toEvent = e := by
  cases e with
  | none => rfl
  | sessionStart t => rfl
  | byteTransfer t0 t1 l b => rfl
  | sessionEnd t => rfl

/-- Settles O25: the codes by their definitions, the events by `Event.toEvent_toPort`. -/
theorem portCodesAreTheSpecs : Obligations.PortCodesAreTheSpecs :=
  ⟨⟨rfl, rfl, rfl, rfl⟩, ⟨rfl, rfl⟩, ⟨rfl, rfl, rfl, rfl, rfl, rfl⟩, Event.toEvent_toPort⟩

/-! ### Payload hex strings (30_encoding R84) -/

theorem hexDigit_injective : Function.Injective hexDigit := by
  unfold Function.Injective
  decide

/-- The digits of a byte give its halves, and the halves the byte. -/
theorem hex2_injective : Function.Injective hex2 := by
  intro a b h
  simp only [hex2, List.cons.injEq, hexDigit_injective.eq_iff, and_true] at h
  obtain ⟨hhigh, hlow⟩ := h
  replace hhigh := congrArg BitVec.toNat hhigh
  replace hlow := congrArg BitVec.toNat hlow
  rw [toNat_highNibble, toNat_highNibble] at hhigh
  rw [toNat_lowNibble, toNat_lowNibble] at hlow
  exact BitVec.eq_of_toNat_eq (by omega)

/-- The digits are read back pair by pair, since every byte has two. -/
theorem hexs_injective : Function.Injective hexs := by
  intro p
  induction p with
  | nil =>
    rintro (_ | ⟨b, q⟩) h
    · rfl
    · cases h
  | cons a p ih =>
    rintro (_ | ⟨b, q⟩) h
    · cases h
    · obtain ⟨hhead, htail⟩ := List.append_inj h rfl
      rw [hex2_injective hhead, ih htail]

/-- Settles O27. -/
theorem payloadHexIsInjective : Obligations.PayloadHexIsInjective :=
  fun _ _ h => hexs_injective h

/-! ### The fields of an emitted record (30_encoding R82, R84) -/

/-- A record of a step is one of the three variants (30_encoding R82). -/
theorem StepCase.out_variant {s t : State} (hc : StepCase s t) {r : Record} (hr : t.out = some r) :
    (∃ b t0 t1, r = .ce b t0 t1) ∨ (∃ hi lo n p ts te, r = .rd hi lo n p ts te) ∨
      ∃ hi lo n p ts te id, r = .wr hi lo n p ts te id := by
  cases hc with
  | cmdBadop _ _ _ _ e => subst e; cases hr; exact .inl ⟨_, _, _, rfl⟩
  | wcZeroRead _ _ _ _ _ _ _ _ _ _ _ _ e | dataReadLast _ _ _ _ _ _ _ _ _ _ _ e =>
    subst e; cases hr; exact .inr (.inl ⟨_, _, _, _, _, _, rfl⟩)
  | wcZeroWrite _ _ _ _ _ _ _ _ _ _ _ _ e | dataWriteLast _ _ _ _ _ _ _ _ _ _ _ e =>
    subst e; cases hr; exact .inr (.inr ⟨_, _, _, _, _, _, _, rfl⟩)
  | evNone _ e | evSessionStart _ e | evSessionEnd _ e | cmdWrite _ _ _ e | cmdRead _ _ _ e | regHighByte _ _ e
  | regLowByte _ _ _ _ e | wcNonzero _ _ _ _ _ e | dataReadMore _ _ _ _ _ e | dataWriteMore _ _ _ _ _ e =>
    subst e; cases hr

/-- Settles O46: variant by variant; the clauses about the other kinds have nothing to say. -/
theorem emittedRecordsAreWellFormed : Obligations.EmittedRecordsAreWellFormed := by
  intro s t r hstep hr
  obtain ⟨b, t0, t1, rfl⟩ | ⟨hi, lo, n, p, ts, te, rfl⟩ | ⟨hi, lo, n, p, ts, te, id, rfl⟩ :=
    (step_cases hstep).out_variant hr
  · exact ⟨rfl, fun _ => ⟨rfl, rfl, rfl, rfl, rfl⟩, fun h => absurd rfl h, nofun⟩
  · exact ⟨rfl, nofun, fun _ => ⟨hi, lo, n, rfl, rfl, rfl, rfl⟩, fun _ => rfl⟩
  · exact ⟨rfl, nofun, fun _ => ⟨hi, lo, n, rfl, rfl, rfl, rfl⟩, nofun⟩

/-! ### The port fields that rules read (30_encoding R78, R79; 42_frame_fsm R124) -/

theorem pastEvent_readReg {α : Type} (r : Reg) (v : Option α) (k : α → Result) :
    pastEvent (readReg r v k) = readReg r v fun x => pastEvent (k x) := by
  cases v <;> rfl

/-- A completion reads nothing of the port. -/
theorem pastEvent_complete_present (kind : RecKind) (ts te : TS) (p : PortSample) (s : State) :
    pastEvent (complete kind ts te (s.present p)) = complete kind ts te s := by
  simp only [complete_eq, pastEvent_readReg]
  rfl

/-- Counting a byte reads nothing of the port: the byte is the instruction's operand. -/
theorem pastEvent_countByte_present (b : Byte) (p : PortSample) (s : State) :
    pastEvent (countByte b (s.present p)) = countByte b s := by
  simp only [countByte, pastEvent_readReg]
  rfl

/-- A completion that first reads its start time (42_frame_fsm R131, R132, R134, R136). -/
theorem pastEvent_readReg_complete_present (r : Reg) (v : Option TS) (kind : RecKind) (te : TS) (p : PortSample)
    (s : State) :
    pastEvent (readReg r v fun ts => complete kind ts te (s.present p)) =
      readReg r v fun ts => complete kind ts te s := by
  simp only [pastEvent_readReg, pastEvent_complete_present]

theorem State.pinWriteStart_present (t : TS) (p : PortSample) (s : State) :
    (s.present p).pinWriteStart t = (s.pinWriteStart t).present p := by
  simp only [State.pinWriteStart_eq]
  rfl

theorem pastEvent_headerOnly_present (kind : RecKind) (p : PortSample) (s : State) :
    pastEvent (headerOnly kind (s.present p)) =
      readReg .tOpStart s.tOpStart fun ts =>
        complete kind ts p.t1 { s with wc := some 0x00#8, rem := some 0#10, tHdrEnd := some p.t1 } :=
  pastEvent_readReg_complete_present _ _ _ _ p
    { s with wc := some 0x00#8, rem := some 0#10, tHdrEnd := some p.t1 }

theorem pastEvent_execDataReadLast_present (b : Byte) (p : PortSample) (s : State) :
    pastEvent (execDataReadLast b (s.present p)) =
      readReg .tOpStart s.tOpStart fun ts =>
        complete .readResult ts p.t1 { s.bufAppend b with rem := some 0#10 } :=
  pastEvent_readReg_complete_present _ _ _ _ p { s.bufAppend b with rem := some 0#10 }

theorem pastEvent_execDataWriteMore_present (b : Byte) (p : PortSample) (s : State) :
    pastEvent (execDataWriteMore b (s.present p)) = countByte b (s.pinWriteStart p.t0) := by
  rw [execDataWriteMore, State.pinWriteStart_present]
  exact pastEvent_countByte_present b p _

theorem pastEvent_execDataWriteLast_present (b : Byte) (p : PortSample) (s : State) :
    pastEvent (execDataWriteLast b (s.present p)) =
      readReg .tWrStart (s.pinWriteStart p.t0).tWrStart fun ts =>
        complete .writeResult ts p.t1 { (s.pinWriteStart p.t0).bufAppend b with rem := some 0#10 } := by
  rw [execDataWriteLast, State.pinWriteStart_present]
  exact pastEvent_readReg_complete_present _ _ _ _ p { (s.pinWriteStart p.t0).bufAppend b with rem := some 0#10 }

/-- A rule reads nothing of the port but the two times (42_frame_fsm R124). -/
theorem pastEvent_exec_present_congr {p q : PortSample} (h0 : p.t0 = q.t0) (h1 : p.t1 = q.t1) (i : Instr)
    (s : State) : pastEvent (exec i (s.present p)) = pastEvent (exec i (s.present q)) := by
  obtain ⟨k, t0, t1, l, b⟩ := p
  obtain ⟨k', t0', t1', l', b'⟩ := q
  cases h0
  cases h1
  cases i with
  | evNone => rfl
  | evSessionStart => rfl
  | evSessionEnd => rfl
  | cmdWrite => rfl
  | cmdRead => rfl
  | cmdBadop b => rfl
  | regHighByte b => rfl
  | regLowByte b => simp only [exec, execRegLowByte, pastEvent_readReg]; rfl
  | wcZeroRead => simp only [exec, execWcZeroRead, pastEvent_headerOnly_present]
  | wcZeroWrite => simp only [exec, execWcZeroWrite, pastEvent_headerOnly_present]
  | wcNonzero b => simp only [exec, execWcNonzero, pastEvent_readReg]; rfl
  | dataReadMore b => simp only [exec, execDataReadMore, pastEvent_countByte_present]
  | dataReadLast b => simp only [exec, pastEvent_execDataReadLast_present]
  | dataWriteMore b => simp only [exec, pastEvent_execDataWriteMore_present]
  | dataWriteLast b => simp only [exec, pastEvent_execDataWriteLast_present]

theorem react_of_idle {p : PortSample} (h : p.kind = .none) (s : State) : react p s = .next s.quiet :=
  step_of_case (.evNone (s := s.present p) h rfl)

theorem react_of_sessionStart {p : PortSample} (h : p.kind = .sessionStart) (s : State) :
    react p s = .next { s.discard.quiet with st := .cmd } :=
  step_of_case (.evSessionStart (s := s.present p) h rfl)

theorem react_of_sessionEnd {p : PortSample} (h : p.kind = .sessionEnd) (s : State) : react p s = .next s.quiet :=
  step_of_case (.evSessionEnd (s := s.present p) h rfl)

/-- The selection reads the kind and the byte of the port only (30_encoding R80). -/
theorem fetchWord_present_congr {p q : PortSample} (hkind : p.kind = q.kind) (hbyte : p.byte = q.byte) (s : State) :
    fetchWord (s.present p) = fetchWord (s.present q) := by
  obtain ⟨k, t0, t1, l, b⟩ := p
  obtain ⟨k', t0', t1', l', b'⟩ := q
  cases hkind
  cases hbyte
  rfl

/-- Settles O51: selection and rule of a byte-transfer read its kind, byte and times only, and a step on any other event
reads nothing but the kind. -/
theorem lineAndUnusedPortFieldsAreNotRead : Obligations.LineAndUnusedPortFieldsAreNotRead := by
  intro p q s ⟨hkind, hfields⟩
  cases hp : p.kind with
  | none => rw [react_of_idle hp, react_of_idle (hkind ▸ hp)]
  | sessionStart => rw [react_of_sessionStart hp, react_of_sessionStart (hkind ▸ hp)]
  | sessionEnd => rw [react_of_sessionEnd hp, react_of_sessionEnd (hkind ▸ hp)]
  | byteTransfer =>
    obtain ⟨hbyte, h0, h1⟩ := hfields hp
    simp only [react, step, fetchWord_present_congr hkind hbyte, pastEvent_exec_present_congr h0 h1]

end Sys2Proof.Machine
end

section
/-! Proofs about the Register Directory (spec 40_register_directory): a key reads back as its address, and no other
string is a key, so the string lookup is the ROM read. -/

namespace Sys2Proof.Machine

/-! ### Digits read back (00_scope R9, 40_register_directory R101) -/

/-- The upper-case digits are the only characters with a value: this is what makes the comparison of keys exact. -/
theorem upperValue?_eq_some_iff {c : Char} {n : Nibble} : upperValue? c = some n ↔ c = hexDigit n := by
  constructor
  · intro h
    have hentries : ∀ e ∈ upperDigits, e.1 = hexDigit e.2 := by decide
    obtain ⟨before, after, hsplit, -⟩ := List.lookup_eq_some_iff.1 h
    exact hentries (c, n) (by simp [hsplit])
  · rintro rfl
    revert n
    decide

@[simp] theorem upperValue?_hexDigit (n : Nibble) : upperValue? (hexDigit n) = some n :=
  upperValue?_eq_some_iff.2 rfl

theorem hex2_append (x y : Nibble) : hex2 (x ++ y) = [hexDigit x, hexDigit y] := by
  rw [hex2, BitVec.extractLsb'_append_eq_left, BitVec.extractLsb'_append_eq_right]

theorem hex4_append (a b c d : Nibble) :
    hex4 (a ++ b) (c ++ d) = [hexDigit a, hexDigit b, hexDigit c, hexDigit d] := by
  rw [hex4, hex2_append, hex2_append]
  rfl

theorem exists_nibbles (b : Byte) : ∃ x y : Nibble, b = x ++ y :=
  ⟨b.extractLsb' 4 4, b.extractLsb' 0 4, hex2_injective (hex2_append _ _).symm⟩

/-! ### Keys and addresses (40_register_directory R101, R105) -/

/-- The index of a key is its address: the four digits side by side are the two bytes side by side. -/
@[simp] theorem keyAddr?_hex4 (hi lo : Byte) : keyAddr? (hex4 hi lo) = some (hi ++ lo) := by
  obtain ⟨a, b, rfl⟩ := exists_nibbles hi
  obtain ⟨c, d, rfl⟩ := exists_nibbles lo
  have hassoc : a ++ b ++ c ++ d = (a ++ b) ++ (c ++ d) := BitVec.append_assoc
  simp only [hex4_append, keyAddr?, upperValue?_hexDigit, hassoc]

/-- Only the keys of addresses have an index. -/
theorem exists_hex4_of_keyAddr? {key : Text} {a : RegAddr} (h : keyAddr? key = some a) :
    ∃ hi lo : Byte, key = hex4 hi lo := by
  unfold keyAddr? at h
  split at h
  next c₃ c₂ c₁ c₀ =>
    split at h
    next n₃ n₂ n₁ n₀ h₃ h₂ h₁ h₀ =>
      rw [upperValue?_eq_some_iff] at h₃ h₂ h₁ h₀
      exact ⟨n₃ ++ n₂, n₁ ++ n₀, by rw [hex4_append, h₃, h₂, h₁, h₀]⟩
    next => cases h
  next => cases h

/-! ### The two forms of the lookup (40_register_directory R100, R105) -/

theorem regDirLookup_of_keyAddr?_eq_none {key : Text} (h : keyAddr? key = none) :
    regDirLookup key = Config.unknownName := by
  rw [regDirLookup, h]

theorem regDirLookup_hex4 (hi lo : Byte) :
    regDirLookup (hex4 hi lo) = (romRead (hi ++ lo)).getD Config.unknownName := by
  rw [regDirLookup, keyAddr?_hex4]

/-- Settles O29: a key's index is its address, so the string form reads the ROM there. -/
theorem directoryFormsAgree : Obligations.DirectoryFormsAgree := by
  intro hi lo
  rw [regDirLookup_hex4]
  cases romRead (hi ++ lo) <;> rfl

/-- Settles O30: a string with an index would be the key of an address. -/
theorem directoryKeysCompareExactly : Obligations.DirectoryKeysCompareExactly := by
  intro key hkey
  cases h : keyAddr? key with
  | none => exact regDirLookup_of_keyAddr?_eq_none h
  | some a =>
    obtain ⟨hi, lo, hhex⟩ := exists_hex4_of_keyAddr? h
    exact absurd hhex (hkey hi lo)

/-! ### The entries of the ROM (40_register_directory R103, R106) -/

/-- The entry that the source gives (40_register_directory R103). -/
@[simp] theorem romRead_timestampPrescaler : romRead 0x0840#16 = some Config.timestampPrescaler := by
  rw [romRead, Config.regDir, if_pos rfl]

/-- Any other entry comes from the open map, and is one that `REG_DIR` may hold (40_register_directory R106). -/
theorem romRead_of_ne {a : RegAddr} (h : a ≠ 0x0840#16) :
    romRead a = (Config.regDirRaw a).filter Config.admissible := if_neg h

/-- The entry of R103 and every entry of the open map is a Mnemonic other than the sentinel. -/
theorem admissible_of_romRead {a : RegAddr} {m : Mnemonic} (h : romRead a = some m) : Config.admissible m = true := by
  by_cases ha : a = 0x0840#16
  · subst ha
    obtain rfl : Config.timestampPrescaler = m := Option.some.inj (romRead_timestampPrescaler.symm.trans h)
    decide
  · rw [romRead_of_ne ha] at h
    exact (Option.filter_eq_some_iff.1 h).2

theorem romRead_ne_unknownName (a : RegAddr) : romRead a ≠ some Config.unknownName := by
  intro h
  have hadmissible := admissible_of_romRead h
  simp [Config.admissible] at hadmissible

/-- Settles O31: `getD` answers the sentinel for a missing entry only, since no entry is the sentinel. -/
theorem unknownMeansAbsent : Obligations.UnknownMeansAbsent := by
  refine ⟨romRead_ne_unknownName, fun hi lo => ?_⟩
  rw [regDirLookup_hex4]
  refine Option.getD_eq_iff.trans ⟨?_, fun h => .inr ⟨h, rfl⟩⟩
  rintro (hentry | ⟨habsent, -⟩)
  · exact absurd hentry (romRead_ne_unknownName _)
  · exact habsent

/-- Settles O28: the key "0840" is that of the bytes 0x08 and 0x40, whatever the open map holds. -/
theorem knownRegisterIsInTheDirectory : Obligations.KnownRegisterIsInTheDirectory := by
  refine ⟨romRead_timestampPrescaler, ?_⟩
  have hkey : "0840".toList = hex4 0x08#8 0x40#8 := by decide
  have haddr : 0x08#8 ++ 0x40#8 = 0x0840#16 := by decide
  rw [hkey, regDirLookup_hex4, haddr, romRead_timestampPrescaler]
  rfl

end Sys2Proof.Machine
end

section
/-! Proofs about the Payload ID Extractor (spec 41_id_extractor): which strings it rejects, the identifier as bits 28:18
of the first payload word, and its byte-level form on a buffer's hex string. -/

namespace Sys2Proof.Machine

/-! ### The hex digits of either letter case (41_id_extractor R111) -/

/-- A digit and its value stand in the table of digits. -/
theorem mem_digits_of_hexValue? {c : Char} {d : Nibble} (h : hexValue? c = some d) :
    (c, d) ∈ upperDigits ++ lowerDigits := by
  obtain ⟨before, after, hsplit, -⟩ := List.lookup_eq_some_iff.1 h
  simp [hsplit]

@[simp] theorem hexValue?_hexDigit (n : Nibble) : hexValue? (hexDigit n) = some n := by
  revert n
  decide

/-- The table of digits lists the three ranges; a character in one of them is one of the ASCII codes. -/
theorem isSome_hexValue?_iff (c : Char) :
    (hexValue? c).isSome = true ↔ ('0' ≤ c ∧ c ≤ '9') ∨ ('A' ≤ c ∧ c ≤ 'F') ∨ ('a' ≤ c ∧ c ≤ 'f') := by
  constructor
  · intro h
    obtain ⟨d, hd⟩ := Option.isSome_iff_exists.1 h
    have htable : ∀ e ∈ upperDigits ++ lowerDigits,
        ('0' ≤ e.1 ∧ e.1 ≤ '9') ∨ ('A' ≤ e.1 ∧ e.1 ≤ 'F') ∨ ('a' ≤ e.1 ∧ e.1 ≤ 'f') := by decide
    exact htable (c, d) (mem_digits_of_hexValue? hd)
  · intro h
    have hascii : ∀ n < 128,
        ('0' ≤ Char.ofNat n ∧ Char.ofNat n ≤ '9') ∨ ('A' ≤ Char.ofNat n ∧ Char.ofNat n ≤ 'F') ∨
          ('a' ≤ Char.ofNat n ∧ Char.ofNat n ≤ 'f') →
        (hexValue? (Char.ofNat n)).isSome = true := by decide
    have hc : c.toNat < 128 := by
      rcases h with ⟨-, hle⟩ | ⟨-, hle⟩ | ⟨-, hle⟩ <;> exact Nat.lt_of_le_of_lt (Char.le_def.1 hle) (by decide)
    simpa only [Char.ofNat_toNat, h, forall_const] using hascii c.toNat hc

/-! ### The digits of a string (41_id_extractor R111) -/

theorem hexDigits?_cons {c : Char} {cs : Text} {d : Nibble} {ds : List Nibble} (hc : hexValue? c = some d)
    (hcs : hexDigits? cs = some ds) : hexDigits? (c :: cs) = some (d :: ds) := by
  rw [hexDigits?, hc, hcs]

/-- One character that is no digit spoils the string, wherever it stands. -/
theorem hexDigits?_eq_none_iff {p : Text} : hexDigits? p = none ↔ ∃ c ∈ p, hexValue? c = none := by
  induction p with
  | nil => simp [hexDigits?]
  | cons c cs ih =>
    rw [List.exists_mem_cons_iff, ← ih]
    cases hc : hexValue? c <;> cases hcs : hexDigits? cs <;> simp [hexDigits?, hc, hcs]

theorem exists_hexDigits? {p : Text} (h : ∀ c ∈ p, (hexValue? c).isSome = true) : ∃ ds, hexDigits? p = some ds := by
  refine Option.ne_none_iff_exists'.1 fun hnone => ?_
  obtain ⟨c, hc, hbad⟩ := hexDigits?_eq_none_iff.1 hnone
  simpa [hbad] using h c hc

theorem idExtract_of_hexDigits? {p : Text} {ds : List Nibble} (hlen : 8 ≤ p.length) (hds : hexDigits? p = some ds) :
    idExtract p = .ok (idOfWord (digitsWord (ds.take 8))) := by
  rw [idExtract, if_neg (Nat.not_lt.2 hlen), hds]

/-- The extractor's two causes of failure, its checks in turn (41_id_extractor R111). -/
theorem idExtract_eq_invalidInput_iff {p : Text} :
    idExtract p = .invalidInput ↔ p.length < 8 ∨ ∃ c ∈ p, hexValue? c = none := by
  rw [← hexDigits?_eq_none_iff]
  by_cases hlen : p.length < 8
  · simp [idExtract, hlen]
  · cases hds : hexDigits? p with
    | none => simp [idExtract, hds]
    | some ds => simp [idExtract_of_hexDigits? (Nat.not_lt.1 hlen) hds, hlen]

/-- Settles O32: the two causes of failure, and the set of digits. -/
theorem extractorRejectsExactlyInvalidInput : Obligations.ExtractorRejectsExactlyInvalidInput :=
  ⟨fun _ => idExtract_eq_invalidInput_iff, isSome_hexValue?_iff⟩

/-! ### The first payload word (41_id_extractor R112) -/

/-- Taking in one more digit puts it below the digits so far. -/
theorem shiftLeft_or_setWidth {w : Nat} (v : BitVec w) (d : Nibble) :
    (v.setWidth 32 <<< 4) ||| d.setWidth 32 = (v ++ d).setWidth 32 := by
  apply BitVec.eq_of_getLsbD_eq
  intro i hi
  by_cases hlow : i < 4
  · simp [BitVec.getLsbD_append, hi, hlow]
  · have hd : d.getLsbD i = false := BitVec.getLsbD_of_ge d i (by omega)
    simp [BitVec.getLsbD_append, hi, hlow, hd]

/-- Eight digits side by side are the word that the extractor reads. -/
theorem digitsWord_eight (d0 d1 d2 d3 d4 d5 d6 d7 : Nibble) :
    digitsWord [d0, d1, d2, d3, d4, d5, d6, d7] = (d0 ++ d1 ++ d2 ++ d3 ++ d4 ++ d5 ++ d6 ++ d7 : BitVec 32) := by
  have hfirst : (0#32 <<< 4) ||| d0.setWidth 32 = d0.setWidth 32 := by simp
  simp only [digitsWord, List.foldl_cons, List.foldl_nil, hfirst, shiftLeft_or_setWidth]
  exact BitVec.setWidth_eq _

/-- Masking to 29 bits and shifting right by 18 leaves bits 28:18. -/
theorem and_idMask_shiftRight (v : BitVec 32) : (v &&& idMask) >>> idShift = (v.extractLsb' 18 11).setWidth 32 := by
  have hmask : idMask = (BitVec.allOnes 29).setWidth 32 := by decide
  apply BitVec.eq_of_getLsbD_eq
  intro i hi
  have hbit : 18 + i < 29 ↔ i < 11 := by omega
  simp only [hmask, idShift, BitVec.getLsbD_ushiftRight, BitVec.getLsbD_and, BitVec.getLsbD_setWidth,
    BitVec.getLsbD_allOnes, BitVec.getLsbD_extractLsb', hbit, hi, decide_true, Bool.true_and]
  by_cases hid : i < 11
  · simp [hid, show 18 + i < 32 by omega]
  · simp [hid]

theorem idOfWord_eq_extractLsb' (v : BitVec 32) : idOfWord v = v.extractLsb' 18 11 := by
  rw [idOfWord, and_idMask_shiftRight, BitVec.setWidth_setWidth_of_le _ (by decide), BitVec.setWidth_eq]

/-- Only the first eight digits make the identifier; the others need only be digits. -/
theorem idExtract_of_digits {c0 c1 c2 c3 c4 c5 c6 c7 : Char} {d0 d1 d2 d3 d4 d5 d6 d7 : Nibble} {rest : Text}
    (h0 : hexValue? c0 = some d0) (h1 : hexValue? c1 = some d1) (h2 : hexValue? c2 = some d2)
    (h3 : hexValue? c3 = some d3) (h4 : hexValue? c4 = some d4) (h5 : hexValue? c5 = some d5)
    (h6 : hexValue? c6 = some d6) (h7 : hexValue? c7 = some d7) (hrest : ∀ c ∈ rest, (hexValue? c).isSome = true) :
    idExtract (c0 :: c1 :: c2 :: c3 :: c4 :: c5 :: c6 :: c7 :: rest) =
      .ok (idOfWord (d0 ++ d1 ++ d2 ++ d3 ++ d4 ++ d5 ++ d6 ++ d7 : BitVec 32)) := by
  obtain ⟨ds, hds⟩ := exists_hexDigits? hrest
  have hall := hexDigits?_cons h0 (hexDigits?_cons h1 (hexDigits?_cons h2 (hexDigits?_cons h3
    (hexDigits?_cons h4 (hexDigits?_cons h5 (hexDigits?_cons h6 (hexDigits?_cons h7 hds)))))))
  rw [idExtract_of_hexDigits? (by simp) hall, ← digitsWord_eight]
  rfl

/-- Settles O33: `idOfWord` is the masking and shifting of the statement. -/
theorem extractorMasksAndShiftsTheFirstWord : Obligations.ExtractorMasksAndShiftsTheFirstWord := by
  refine ⟨?_, and_idMask_shiftRight⟩
  intro c0 c1 c2 c3 c4 c5 c6 c7 d0 d1 d2 d3 d4 d5 d6 d7 rest h0 h1 h2 h3 h4 h5 h6 h7 hrest
  exact idExtract_of_digits h0 h1 h2 h3 h4 h5 h6 h7 hrest

/-! ### The byte-level form (41_id_extractor R114) -/

/-- Every character of a payload hex string is a digit. -/
theorem isSome_hexValue?_of_mem_hexs {bs : List Byte} {c : Char} (h : c ∈ hexs bs) : (hexValue? c).isSome = true := by
  rw [hexs_eq_flatMap, List.mem_flatMap] at h
  obtain ⟨b, -, hc⟩ := h
  rcases List.mem_pair.1 hc with rfl | rfl <;> simp

/-- Bits 28:18 of four bytes are bits 4:0 of the first over bits 7:2 of the second. -/
theorem extractLsb'_of_bytes (b0 b1 b2 b3 : Byte) :
    (b0 ++ b1 ++ b2 ++ b3 : BitVec 32).extractLsb' 18 11 =
      (b0.extractLsb' 0 5 ++ b1.extractLsb' 2 6 : BitVec 11) := by
  apply BitVec.eq_of_getLsbD_eq
  intro i hi
  simp only [BitVec.getLsbD_extractLsb', BitVec.getLsbD_append]
  by_cases hlow : i < 6
  · simp [hi, hlow, show ¬ 18 + i < 8 by omega, show ¬ 18 + i - 8 < 8 by omega, show 18 + i - 8 - 8 = 2 + i by omega,
      show 2 + i < 8 by omega]
  · simp [hi, hlow, show ¬ 18 + i < 8 by omega, show ¬ 18 + i - 8 < 8 by omega, show ¬ 18 + i - 8 - 8 < 8 by omega,
      show 18 + i - 8 - 8 - 8 = i - 6 by omega, show i - 6 < 5 by omega]

/-- Four bytes side by side are their eight digits side by side. -/
theorem append_of_nibbles (x0 y0 x1 y1 x2 y2 x3 y3 : Nibble) :
    (x0 ++ y0) ++ (x1 ++ y1) ++ (x2 ++ y2) ++ (x3 ++ y3) = x0 ++ y0 ++ x1 ++ y1 ++ x2 ++ y2 ++ x3 ++ y3 := by
  have h1 : (x0 ++ y0) ++ (x1 ++ y1) = x0 ++ y0 ++ x1 ++ y1 := BitVec.append_assoc.symm
  have h2 : (x0 ++ y0 ++ x1 ++ y1) ++ (x2 ++ y2) = x0 ++ y0 ++ x1 ++ y1 ++ x2 ++ y2 := BitVec.append_assoc.symm
  rw [h1, h2]
  exact BitVec.append_assoc.symm

/-- The identifier of a buffer of four bytes or more, from its hex string. -/
theorem idExtract_hexs_cons (b0 b1 b2 b3 : Byte) (bs : List Byte) :
    idExtract (hexs (b0 :: b1 :: b2 :: b3 :: bs)) =
      .ok (b0.extractLsb' 0 5 ++ b1.extractLsb' 2 6 : BitVec 11) := by
  rw [← extractLsb'_of_bytes b0 b1 b2 b3]
  obtain ⟨x0, y0, rfl⟩ := exists_nibbles b0
  obtain ⟨x1, y1, rfl⟩ := exists_nibbles b1
  obtain ⟨x2, y2, rfl⟩ := exists_nibbles b2
  obtain ⟨x3, y3, rfl⟩ := exists_nibbles b3
  rw [append_of_nibbles, ← idOfWord_eq_extractLsb']
  simp only [hexs, hex2_append]
  exact idExtract_of_digits (hexValue?_hexDigit _) (hexValue?_hexDigit _) (hexValue?_hexDigit _)
    (hexValue?_hexDigit _) (hexValue?_hexDigit _) (hexValue?_hexDigit _) (hexValue?_hexDigit _)
    (hexValue?_hexDigit _) fun _ => isSome_hexValue?_of_mem_hexs

theorem idExtract_hexs_of_length_lt {bs : List Byte} (h : bs.length < 4) : idExtract (hexs bs) = .invalidInput :=
  idExtract_eq_invalidInput_iff.2 (.inl (by rw [length_hexs]; omega))

/-- Shifting the first byte's bits over the second's is putting them side by side. -/
theorem setWidth_shiftLeft_or (x : BitVec 5) (y : BitVec 6) :
    (x.setWidth 11 <<< 6) ||| y.setWidth 11 = (x ++ y : BitVec 11) := by
  revert x y
  decide

/-- Settles O34: by the number of bytes, below four or not. -/
theorem extractorEqualsItsByteForm : Obligations.ExtractorEqualsItsByteForm
  | b0 :: b1 :: b2 :: b3 :: bs => by rw [idExtract_hexs_cons, idExtractBytes, setWidth_shiftLeft_or]
  | [] | [_] | [_, _] | [_, _, _] => idExtract_hexs_of_length_lt (by simp)

/-! ### The identifier of a record (42_frame_fsm R137, 41_id_extractor R113, R115) -/

theorem exists_four_of_length {bs : List Byte} (h : 4 ≤ bs.length) :
    ∃ b0 b1 b2 b3 rest, bs = b0 :: b1 :: b2 :: b3 :: rest := by
  match bs, h with
  | b0 :: b1 :: b2 :: b3 :: rest, _ => exact ⟨b0, b1, b2, b3, rest, rfl⟩

theorem idField_of_ne_marker {hi : Byte} (h : hi ≠ 0x84#8) (pbuf : List Byte) : idField hi pbuf = none := if_neg h

theorem idField_nil (hi : Byte) : idField hi [] = none := by
  unfold idField
  split <;> rfl

theorem idField_marker_cons (b0 b1 b2 b3 : Byte) (bs : List Byte) :
    idField 0x84#8 (b0 :: b1 :: b2 :: b3 :: bs) =
      some (b0.extractLsb' 0 5 ++ b1.extractLsb' 2 6 : BitVec 11) := by
  rw [idField, if_pos (show 0x84#8 = txMarkerHi from rfl), idExtract_hexs_cons]

/-- Settles O36. -/
theorem markerWriteHasIdIffPayload : Obligations.MarkerWriteHasIdIffPayload := by
  refine ⟨idField_nil _, fun pbuf hlen => ?_⟩
  obtain ⟨b0, b1, b2, b3, rest, rfl⟩ := exists_four_of_length hlen
  rw [idField_marker_cons]
  rfl

/-- Settles O35: kind by kind; only for a Write-Result is the marker tested. -/
theorem identifierOnlyAtTheTransmitMarker : Obligations.IdentifierOnlyAtTheTransmitMarker := by
  intro kind hi lo name pbuf ts te
  cases kind with
  | commandError => rfl
  | readResult => rfl
  | writeResult =>
    by_cases h : hi = 0x84#8
    · exact (if_pos h).trans (if_pos ⟨rfl, h⟩).symm
    · exact (if_neg h).trans (if_neg fun hmarker => h hmarker.2).symm

end Sys2Proof.Machine
end

section
/-! Proofs about whole frames (spec 30_encoding section 1, 42_frame_fsm sections 3 and 4): the header bytes, the payload
byte by byte, and the record a frame gives, for both opcodes at once. -/

namespace Sys2Proof.Machine

/-! ### A frame's bytes, and its opcode (30_encoding R70-R72) -/

/-- The opcode byte that opens a Transaction of an opcode (42_frame_fsm R125, R126). -/
def opcodeByte : Opcode → Byte
  | .read => 0x41#8
  | .write => 0x61#8

/-- The kind of record a Transaction of an opcode ends in (42_frame_fsm R131, R132, R134, R136). -/
def resultKind : Opcode → RecKind
  | .read => .readResult
  | .write => .writeResult

/-- The samples of a byte and more bytes are a sample of the byte and samples of the others. -/
theorem delivers_cons {ps : List PortSample} {b : Byte} {bs : List Byte} (h : delivers ps (b :: bs)) :
    ∃ p qs, ps = p :: qs ∧ p.kind = .byteTransfer ∧ p.byte = b ∧ delivers qs bs := by
  obtain ⟨hkind, hbytes⟩ := h
  obtain ⟨p, qs, rfl, hp, hqs⟩ := List.map_eq_cons_iff.1 hbytes
  obtain ⟨hkp, hkqs⟩ := List.forall_mem_cons.1 hkind
  exact ⟨p, qs, rfl, hkp, hp, hkqs, hqs⟩

theorem runEvents_cons {p : PortSample} {s t : State} (h : react p s = .next t) (ps : List PortSample) :
    runEvents (p :: ps) s = runEvents ps t := by
  rw [runEvents, h]

/-- A completed Transaction keeps nothing of the state but the stream and the records taken (42_frame_fsm R140). -/
theorem State.afterRecord_congr {s t : State} (hinp : t.inp = s.inp) (htaken : t.taken = s.taken) (r : Record)
    (n : Mnemonic) : t.afterRecord r n = s.afterRecord r n := by
  rw [State.afterRecord, State.afterRecord, hinp, htaken]

/-! ### The header (42_frame_fsm R125-R129) -/

theorem react_opcode (o : Opcode) {p : PortSample} {s : State} (hst : s.st = .cmd) (hk : p.kind = .byteTransfer)
    (hb : p.byte = opcodeByte o) :
    react p s = .next { s with op := some o, tOpStart := some p.t0, st := .regHigh, out := none } := by
  cases o with
  | read => exact step_of_case (.cmdRead (s := s.present p) hk hst hb rfl)
  | write => exact step_of_case (.cmdWrite (s := s.present p) hk hst hb rfl)

theorem react_regHigh {p : PortSample} {s : State} (hst : s.st = .regHigh) (hk : p.kind = .byteTransfer) :
    react p s = .next { s with addrHi := some p.byte, st := .regLow, out := none } :=
  step_of_case (.regHighByte (s := s.present p) hk hst rfl)

theorem react_regLow {p : PortSample} {s : State} {hi : Byte} (hst : s.st = .regLow) (hhi : s.addrHi = some hi)
    (hk : p.kind = .byteTransfer) :
    react p s = .next { s with
      addrLo := some p.byte, name := some (regDirLookup (hex4 hi p.byte)), st := .wordCount, out := none } :=
  step_of_case (.regLowByte (s := s.present p) hi hk hst hhi rfl)

/-- `s` with the opcode byte and the address of a frame received, the word count still to come. -/
def State.addressed (o : Opcode) (t0 : TS) (hi lo : Byte) (s : State) : State :=
  { s with
    op := some o, tOpStart := some t0, addrHi := some hi, addrLo := some lo, name := some (regDirLookup (hex4 hi lo))
    st := .wordCount, out := none }

/-- The first three bytes of a frame. -/
theorem runEvents_addressed {o : Opcode} {p0 p1 p2 : PortSample} {s : State} (hst : s.st = .cmd)
    (hk0 : p0.kind = .byteTransfer) (hb0 : p0.byte = opcodeByte o) (hk1 : p1.kind = .byteTransfer)
    (hk2 : p2.kind = .byteTransfer) (ps : List PortSample) :
    runEvents (p0 :: p1 :: p2 :: ps) s = runEvents ps (s.addressed o p0.t0 p1.byte p2.byte) := by
  rw [runEvents_cons (react_opcode o hst hk0 hb0), runEvents_cons (react_regHigh rfl hk1),
    runEvents_cons (react_regLow rfl rfl hk2)]
  rfl

/-! ### The payload (42_frame_fsm R133-R136) -/

/-- The Transaction collects the payload of its address, with `k` bytes still to come (10_state R37 items 3 and 4). -/
structure State.Collects (s : State) (o : Opcode) (hi lo : Byte) (n : Mnemonic) (k : Nat) : Prop where
  st : s.st = payloadState o
  addrHi : s.addrHi = some hi
  addrLo : s.addrLo = some lo
  name : s.name = some n
  rem : ∃ r, s.rem = some r ∧ r.toNat = k

/-- The start time of the record, with the payload byte `p` at the port: a READ starts at its opcode byte, a WRITE at
its first payload byte (42_frame_fsm R134-R136). -/
def State.resultStart (o : Opcode) (p : PortSample) (s : State) : Option TS :=
  match o with
  | .read => s.tOpStart
  | .write => if s.pbuf = [] then some p.t0 else s.tWrStart

/-- A word count of 0 completes the Transaction without a payload (42_frame_fsm R131, R132). -/
theorem react_wcZero {o : Opcode} {t0 : TS} {hi lo : Byte} {p : PortSample} (s : State) (hk : p.kind = .byteTransfer)
    (hb : p.byte = 0x00#8) :
    react p (s.addressed o t0 hi lo) =
      .next (s.afterRecord (resultRec (resultKind o) hi lo (regDirLookup (hex4 hi lo)) s.pbuf t0 p.t1)
        (regDirLookup (hex4 hi lo))) := by
  cases o with
  | read =>
    exact step_of_case (.wcZeroRead (s := (s.addressed .read t0 hi lo).present p) t0 hi lo _ hk rfl hb rfl rfl rfl rfl
      rfl rfl)
  | write =>
    exact step_of_case (.wcZeroWrite (s := (s.addressed .write t0 hi lo).present p) t0 hi lo _ hk rfl hb rfl rfl rfl rfl
      rfl rfl)

/-- A word count `N` other than 0 lets `4N` payload bytes come (42_frame_fsm R130). -/
theorem exists_react_wcNonzero {o : Opcode} {t0 : TS} {hi lo : Byte} {p : PortSample} (s : State)
    (hk : p.kind = .byteTransfer) (hb : p.byte ≠ 0x00#8) :
    ∃ t, react p (s.addressed o t0 hi lo) = .next t ∧
      t.Collects o hi lo (regDirLookup (hex4 hi lo)) (4 * p.byte.toNat) ∧
      t.tOpStart = some t0 ∧ t.pbuf = s.pbuf ∧ ∀ r n, t.afterRecord r n = s.afterRecord r n :=
  ⟨_, step_of_case (.wcNonzero (s := (s.addressed o t0 hi lo).present p) o hk rfl hb rfl rfl),
    ⟨rfl, rfl, rfl, rfl, _, rfl, payloadCount_toNat _⟩, rfl, rfl, State.afterRecord_congr rfl rfl⟩

/-- A payload byte that is not the last goes to the buffer, and the start time is known from then on (42_frame_fsm R133,
R135). -/
theorem State.Collects.exists_react_more {s : State} {o : Opcode} {hi lo : Byte} {n : Mnemonic} {k : Nat} {ts : TS}
    {p : PortSample} (h : s.Collects o hi lo n (k + 2)) (hk : p.kind = .byteTransfer)
    (hts : s.resultStart o p = some ts) :
    ∃ t, react p s = .next t ∧ t.Collects o hi lo n (k + 1) ∧ (∀ q, t.resultStart o q = some ts) ∧
      t.pbuf = s.pbuf ++ [p.byte] ∧ ∀ r m, t.afterRecord r m = s.afterRecord r m := by
  obtain ⟨hst, hhi, hlo, hn, r, hr, hrk⟩ := h
  have hlast : r ≠ 1#10 := by rintro rfl; simp at hrk
  have hrem : (remPred s.plen r).toNat = k + 1 := by rw [remPred_toNat s.plen r (by omega), hrk]; rfl
  cases o with
  | read =>
    exact ⟨_, step_of_case (.dataReadMore (s := s.present p) r hk hst hr hlast rfl),
      ⟨hst, hhi, hlo, hn, _, rfl, hrem⟩, fun _ => hts, rfl, State.afterRecord_congr rfl rfl⟩
  | write =>
    exact ⟨_, step_of_case (.dataWriteMore (s := s.present p) r hk hst hr hlast rfl),
      ⟨hst, hhi, hlo, hn, _, rfl, hrem⟩, fun _ => (if_neg (by simp)).trans hts, rfl, State.afterRecord_congr rfl rfl⟩

/-- The last payload byte completes the Transaction (42_frame_fsm R134, R136). -/
theorem State.Collects.react_last {s : State} {o : Opcode} {hi lo : Byte} {n : Mnemonic} {ts : TS} {p : PortSample}
    (h : s.Collects o hi lo n 1) (hk : p.kind = .byteTransfer) (hts : s.resultStart o p = some ts) :
    react p s = .next (s.afterRecord (resultRec (resultKind o) hi lo n (s.pbuf ++ [p.byte]) ts p.t1) n) := by
  obtain ⟨hst, hhi, hlo, hn, r, hr, hr1⟩ := h
  obtain rfl : r = 1#10 := BitVec.eq_of_toNat_eq hr1
  cases o with
  | read => exact step_of_case (.dataReadLast (s := s.present p) ts hi lo n hk hst hr hts hhi hlo hn rfl)
  | write => exact step_of_case (.dataWriteLast (s := s.present p) ts hi lo n hk hst hr hts hhi hlo hn rfl)

/-- As many bytes as are still to come complete the Transaction, by induction on the bytes after the first. -/
theorem State.Collects.runEvents_payload {o : Opcode} {hi lo : Byte} {n : Mnemonic} {ts : TS} {s : State}
    {p : PortSample} {qs : List PortSample} (h : s.Collects o hi lo n (qs.length + 1))
    (hk : ∀ q ∈ p :: qs, q.kind = .byteTransfer) (hts : s.resultStart o p = some ts) :
    runEvents (p :: qs) s = .next (s.afterRecord
      (resultRec (resultKind o) hi lo n (s.pbuf ++ (p :: qs).map PortSample.byte) ts
        ((p :: qs).getD qs.length .idle).t1) n) := by
  induction qs generalizing s p with
  | nil => exact runEvents_cons (h.react_last (hk p (by simp)) hts) []
  | cons q qs ih =>
    obtain ⟨hkp, hkqs⟩ := List.forall_mem_cons.1 hk
    obtain ⟨t, hreact, ht, hstart, hbuf, hafter⟩ := h.exists_react_more hkp hts
    rw [runEvents_cons hreact, ih ht hkqs (hstart q), hafter, hbuf, List.append_assoc]
    rfl

/-! ### The whole frame (30_encoding R70, R71, R75) -/

/-- The start time of a frame's record: the opcode byte's for a READ and without a payload, else the first payload
byte's (42_frame_fsm R131, R132, R134-R136). -/
def frameStart (o : Opcode) (n : Byte) (ps : List PortSample) : TS :=
  match o with
  | .read => (ps.getD 0 .idle).t0
  | .write => if n = 0x00#8 then (ps.getD 0 .idle).t0 else (ps.getD 4 .idle).t0

theorem frameStart_zero (o : Opcode) (ps : List PortSample) : frameStart o 0x00#8 ps = (ps.getD 0 .idle).t0 := by
  cases o <;> rfl

/-- Before the first payload byte, the start time to come is the frame's. -/
theorem State.resultStart_first {o : Opcode} {n : Byte} {s : State} {p0 p1 p2 p3 p4 : PortSample}
    {qs : List PortSample} (hts : s.tOpStart = some p0.t0) (hbuf : s.pbuf = []) (hn : n ≠ 0x00#8) :
    s.resultStart o p4 = some (frameStart o n (p0 :: p1 :: p2 :: p3 :: p4 :: qs)) := by
  cases o with
  | read => exact hts
  | write => rw [State.resultStart, if_pos hbuf, frameStart, if_neg hn]; rfl

/-- A frame of either opcode, delivered in CMD with an empty buffer, gives its one record: the header, then either the
completion at word count 0 or the payload. -/
theorem runEvents_frame {o : Opcode} {s : State} {hi lo n : Byte} {data : List Byte} {ps : List PortSample}
    (hst : s.st = .cmd) (hbuf : s.pbuf = []) (hlen : data.length = 4 * n.toNat)
    (hps : delivers ps (opcodeByte o :: hi :: lo :: n :: data)) :
    runEvents ps s = .next (s.afterRecord
      (resultRec (resultKind o) hi lo (regDirLookup (hex4 hi lo)) data (frameStart o n ps)
        (ps.getD (3 + data.length) .idle).t1) (regDirLookup (hex4 hi lo))) := by
  obtain ⟨p0, _, rfl, hk0, hb0, hps0⟩ := delivers_cons hps
  obtain ⟨p1, _, rfl, hk1, rfl, hps1⟩ := delivers_cons hps0
  obtain ⟨p2, _, rfl, hk2, rfl, hps2⟩ := delivers_cons hps1
  obtain ⟨p3, qs, rfl, hk3, rfl, hkqs, rfl⟩ := delivers_cons hps2
  rw [runEvents_addressed hst hk0 hb0 hk1 hk2]
  rw [List.length_map] at hlen ⊢
  by_cases hn : p3.byte = 0x00#8
  · obtain rfl : qs = [] := List.eq_nil_of_length_eq_zero (by simpa [hn] using hlen)
    rw [runEvents_cons (react_wcZero s hk3 hn), hn, frameStart_zero, hbuf]
    rfl
  · obtain ⟨t, hreact, ht, hop, htbuf, hafter⟩ := exists_react_wcNonzero (o := o) (t0 := p0.t0) s hk3 hn
    have hpos : p3.byte.toNat ≠ 0 := fun e => hn (BitVec.eq_of_toNat_eq e)
    obtain ⟨p4, qs, rfl⟩ := List.exists_cons_of_length_pos (l := qs) (by omega)
    rw [← hlen, List.length_cons] at ht
    have htbuf : t.pbuf = [] := htbuf.trans hbuf
    rw [runEvents_cons hreact, ht.runEvents_payload hkqs (State.resultStart_first hop htbuf hn), hafter, htbuf,
      List.length_cons, Nat.add_comm 3]
    rfl

/-- The identifier of a frame's payload: two of its bytes, at the marker, where there are any (41_id_extractor R114,
R116). -/
theorem idField_of_length {hi n : Byte} {data : List Byte} (hlen : data.length = 4 * n.toNat) :
    idField hi data =
      if hi = 0x84#8 ∧ n ≠ 0x00#8 then
        some ((data.getD 0 0#8).extractLsb' 0 5 ++ (data.getD 1 0#8).extractLsb' 2 6 : BitVec 11)
      else none := by
  by_cases hmarker : hi = 0x84#8 ∧ n ≠ 0x00#8
  · obtain ⟨rfl, hn⟩ := hmarker
    have hpos : n.toNat ≠ 0 := fun e => hn (BitVec.eq_of_toNat_eq e)
    obtain ⟨b0, b1, b2, b3, rest, rfl⟩ := exists_four_of_length (bs := data) (by omega)
    rw [if_pos ⟨rfl, hn⟩, idField_marker_cons]
    rfl
  · rw [if_neg hmarker]
    by_cases hhi : hi = 0x84#8
    · obtain rfl : n = 0x00#8 := not_not.1 fun hn => hmarker ⟨hhi, hn⟩
      obtain rfl : data = [] := List.eq_nil_of_length_eq_zero hlen
      exact idField_nil hi
    · exact idField_of_ne_marker hhi data

/-- Settles O53: the frame of opcode WRITE, with the identifier of its payload. -/
theorem writeFrameIsReassembled : Obligations.WriteFrameIsReassembled := by
  intro s hi lo n data ps hst hbuf hlen hps
  rw [← idField_of_length hlen]
  exact runEvents_frame (o := .write) hst hbuf hlen hps

end Sys2Proof.Machine
end

section
/-! Proofs about the rules of the FSM one by one (spec 42_frame_fsm): when each is selected and its whole effect, then
what runs of one kind of event do and what no rule reads. -/

namespace Sys2Proof.Machine

/-! ### Which instruction a state selects (42_frame_fsm R124, 30_encoding R81) -/

/-- The instruction of the decode word is the selected one, where the selection can read what it needs. -/
theorem State.selects_of_decode {s : State} {i : Instr} (hgap : s.selectionGap = none)
    (hi : decode s.decodeWord = .ok i) : s.selects i = true := by
  simp [State.selects, fetchWord_ok.2 ⟨hgap, rfl⟩, hi]

/-- The opcode byte (42_frame_fsm R125-R127). -/
theorem State.selects_cmd {s : State} (hk : s.port.kind = .byteTransfer) (hst : s.st = .cmd) :
    s.selects (if s.port.byte = 0x61#8 then .cmdWrite else if s.port.byte = 0x41#8 then .cmdRead
      else .cmdBadop s.port.byte) = true :=
  s.selects_of_decode (by simp [State.selectionGap, hk, hst]) (by rw [decode_of_byte hk, hst])

/-- The address high byte (42_frame_fsm R128). -/
theorem State.selects_regHigh {s : State} (hk : s.port.kind = .byteTransfer) (hst : s.st = .regHigh) :
    s.selects (.regHighByte s.port.byte) = true :=
  s.selects_of_decode (by simp [State.selectionGap, hk, hst]) (by rw [decode_of_byte hk, hst])

/-- The address low byte (42_frame_fsm R129). -/
theorem State.selects_regLow {s : State} (hk : s.port.kind = .byteTransfer) (hst : s.st = .regLow) :
    s.selects (.regLowByte s.port.byte) = true :=
  s.selects_of_decode (by simp [State.selectionGap, hk, hst]) (by rw [decode_of_byte hk, hst])

/-- The word-count byte: it is read with `op` (42_frame_fsm R130-R132). -/
theorem State.selects_wordCount {s : State} {o : Opcode} (hk : s.port.kind = .byteTransfer) (hst : s.st = .wordCount)
    (hop : s.op = some o) :
    s.selects (if s.port.byte = 0x00#8 then (if o = .write then .wcZeroWrite else .wcZeroRead)
      else .wcNonzero s.port.byte) = true :=
  s.selects_of_decode (by simp [State.selectionGap, hk, hst, hop]) (by rw [decode_of_byte hk, hst, hop]; simp)

/-- A payload byte of a READ: it is read with `rem` (42_frame_fsm R133, R134). -/
theorem State.selects_dataRead {s : State} {r : RemCount} (hk : s.port.kind = .byteTransfer) (hst : s.st = .dataRead)
    (hr : s.rem = some r) :
    s.selects (if r = 1#10 then .dataReadLast s.port.byte else .dataReadMore s.port.byte) = true :=
  s.selects_of_decode (by simp [State.selectionGap, hk, hst, hr]) (by rw [decode_of_byte hk, hst, hr]; simp)

/-- A payload byte of a WRITE: it is read with `rem` (42_frame_fsm R135, R136). -/
theorem State.selects_dataWrite {s : State} {r : RemCount} (hk : s.port.kind = .byteTransfer)
    (hst : s.st = .dataWrite) (hr : s.rem = some r) :
    s.selects (if r = 1#10 then .dataWriteLast s.port.byte else .dataWriteMore s.port.byte) = true :=
  s.selects_of_decode (by simp [State.selectionGap, hk, hst, hr]) (by rw [decode_of_byte hk, hst, hr]; simp)

theorem RemCount.ne_one_of_two_le {r : RemCount} (h : 2 ≤ r.toNat) : r ≠ 1#10 := by
  rintro rfl
  simp at h

/-! ### The idle and session events (42_frame_fsm R121-R123) -/

/-- Settles O3: with no event only the kind is looked at, and the rule is `State.quiet`. -/
theorem evNoneChangesNothing : Obligations.EvNoneChangesNothing :=
  ⟨fun s hk => s.selects_of_decode (selectionGap_of_no_byte (by simp [hk])) (decode_of_idle hk), fun _ => rfl⟩

/-- Settles O4: a session-start is selected by its kind alone, and the rule is a `Discard()` back to CMD. -/
theorem sessionStartDiscardsTheTransaction : Obligations.SessionStartDiscardsTheTransaction :=
  ⟨fun s hk => s.selects_of_decode (selectionGap_of_no_byte (by simp [hk])) (decode_of_sessionStart hk), fun _ => rfl⟩

/-- Settles O5: a session-end is selected by its kind alone, and the rule is `State.quiet`. -/
theorem sessionEndChangesNothing : Obligations.SessionEndChangesNothing :=
  ⟨fun s hk => s.selects_of_decode (selectionGap_of_no_byte (by simp [hk])) (decode_of_sessionEnd hk), fun _ => rfl⟩

/-! ### A byte in CMD (42_frame_fsm R125-R127) -/

/-- Settles O6: 0x61 is the first byte the selection in CMD asks for. -/
theorem writeOpcodeOpensATransaction : Obligations.WriteOpcodeOpensATransaction := by
  refine ⟨fun s hk hst hb => ?_, fun _ => rfl⟩
  simpa [hb] using State.selects_cmd hk hst

/-- Settles O7: 0x41 is the second one. -/
theorem readOpcodeOpensATransaction : Obligations.ReadOpcodeOpensATransaction := by
  refine ⟨fun s hk hst hb => ?_, fun _ => rfl⟩
  simpa [hb] using State.selects_cmd hk hst

/-- Settles O8: a byte that is neither, reported by `commandError`. -/
theorem illegalOpcodeEmitsOneCommandError : Obligations.IllegalOpcodeEmitsOneCommandError := by
  refine ⟨fun s hk hst hread hwrite => ?_, fun s b => ⟨commandError b s.startTime s.endTime, rfl, ?_⟩⟩
  · simpa [hread, hwrite] using State.selects_cmd hk hst
  · exact ⟨rfl, rfl, rfl, rfl, rfl, rfl, rfl, rfl, rfl, rfl⟩

/-! ### The header bytes (42_frame_fsm R128-R132) -/

/-- Settles O9: the selection in REG_HIGH asks for no byte value, and the rule reads no register. -/
theorem regHighByteLatchesTheAddressHighByte : Obligations.RegHighByteLatchesTheAddressHighByte :=
  ⟨fun _ => State.selects_regHigh, fun _ _ => rfl⟩

/-- Settles O10: the rule goes on with the high byte that is written. -/
theorem regLowByteLooksUpTheName : Obligations.RegLowByteLooksUpTheName :=
  ⟨fun _ => State.selects_regLow, fun _ _ hi hhi => readReg_next.2 ⟨hi, hhi, rfl⟩⟩

theorem payloadState_eq_ite (o : Opcode) : payloadState o = if o = .read then .dataRead else .dataWrite := by
  cases o <;> rfl

/-- Settles O11: `payloadCount` is `4N`, and the opcode selects the payload state. -/
theorem nonzeroWordCountSetsTheCounter : Obligations.NonzeroWordCountSetsTheCounter := by
  refine ⟨fun s o hk hst hop hb => ?_, fun s b o hop => ⟨payloadCount b, payloadCount_toNat b, ?_⟩⟩
  · simpa [hb] using State.selects_wordCount hk hst hop
  · rw [← payloadState_eq_ite]
    exact readReg_next.2 ⟨o, hop, rfl⟩

/-- Settles O12: a header-only end with a Read-Result. -/
theorem zeroWordCountCompletesARead : Obligations.ZeroWordCountCompletesARead := by
  refine ⟨fun s hk hst hop hb => ?_, fun s hi lo name ts hhi hlo hname hts => ?_⟩
  · simpa [hb] using State.selects_wordCount hk hst hop
  · exact headerOnly_next.2 ⟨ts, hi, lo, name, hts, hhi, hlo, hname, rfl⟩

/-- Settles O13: a header-only end with a Write-Result. -/
theorem zeroWordCountCompletesAWrite : Obligations.ZeroWordCountCompletesAWrite := by
  refine ⟨fun s hk hst hop hb => ?_, fun s hi lo name ts hhi hlo hname hts => ?_⟩
  · simpa [hb] using State.selects_wordCount hk hst hop
  · exact headerOnly_next.2 ⟨ts, hi, lo, name, hts, hhi, hlo, hname, rfl⟩

/-! ### The payload bytes (42_frame_fsm R133-R136) -/

/-- Settles O14: a counted byte, and `remPred` above 0. -/
theorem readPayloadByteIsCounted : Obligations.ReadPayloadByteIsCounted := by
  refine ⟨fun s r hk hst hr hmore => ?_, fun s b r hr => ⟨remPred s.plen r, ?_, remPred_toNat s.plen r⟩⟩
  · simpa [RemCount.ne_one_of_two_le hmore] using State.selects_dataRead hk hst hr
  · exact countByte_next.2 ⟨r, hr, rfl⟩

/-- Settles O15: the selection finds `rem = 1`, and the rule reads the start time and the header. -/
theorem lastReadPayloadByteCompletes : Obligations.LastReadPayloadByteCompletes :=
  ⟨fun _ => State.selects_dataRead,
    fun _ _ hi lo name ts hhi hlo hname hts => execDataReadLast_next.2 ⟨ts, hi, lo, name, hts, hhi, hlo, hname, rfl⟩⟩

/-- The rules test the buffer where the spec tests `plen` (10_state R28). -/
theorem State.ite_plen_eq_zero {α : Type} (s : State) (a b : α) :
    (if s.plen = 0 then a else b) = if s.pbuf = [] then a else b :=
  if_congr List.length_eq_zero_iff rfl rfl

/-- Settles O16: as O14, with the start time pinned by a byte that finds the buffer empty. -/
theorem writePayloadByteIsCounted : Obligations.WritePayloadByteIsCounted := by
  refine ⟨fun s r hk hst hr hmore => ?_, fun s b r hr => ⟨remPred s.plen r, ?_, remPred_toNat s.plen r⟩⟩
  · simpa [RemCount.ne_one_of_two_le hmore] using State.selects_dataWrite hk hst hr
  · rw [State.ite_plen_eq_zero]
    exact execDataWriteMore_next.2 ⟨r, hr, rfl⟩

/-- Settles O17: the start time is this byte's where it finds the buffer empty. -/
theorem lastWritePayloadByteCompletes : Obligations.LastWritePayloadByteCompletes := by
  refine ⟨fun s hk hst hr => ?_, fun s b hi lo name ts hhi hlo hname hts => ?_⟩
  · exact State.selects_dataWrite hk hst hr
  · rw [State.ite_plen_eq_zero] at hts
    exact execDataWriteLast_next.2 ⟨ts, hi, lo, name, hts, hhi, hlo, hname, rfl⟩

/-! ### `prev_name` follows the results (42_frame_fsm R139) -/

/-- A completion keeps its record's name; CMD_BADOP and the silent rows keep the old one. -/
theorem StepCase.prevName {s t : State} (hc : StepCase s t) :
    (t.out = none ∧ t.prevName = s.prevName) ∨
      ∃ r, t.out = some r ∧ t.prevName = if r.kind = .commandError then s.prevName else r.name := by
  cases hc with
  | cmdBadop _ _ _ _ e => subst e; exact .inr ⟨_, rfl, rfl⟩
  | wcZeroRead _ _ _ _ _ _ _ _ _ _ _ _ e | wcZeroWrite _ _ _ _ _ _ _ _ _ _ _ _ e
  | dataReadLast _ _ _ _ _ _ _ _ _ _ _ e | dataWriteLast _ _ _ _ _ _ _ _ _ _ _ e =>
    subst e; exact .inr ⟨_, rfl, rfl⟩
  | evNone _ e | evSessionStart _ e | evSessionEnd _ e | cmdWrite _ _ _ e | cmdRead _ _ _ e | regHighByte _ _ e
  | regLowByte _ _ _ _ e | wcNonzero _ _ _ _ _ e | dataReadMore _ _ _ _ _ e | dataWriteMore _ _ _ _ _ e =>
    subst e; exact .inl ⟨rfl, rfl⟩

/-! ### No rule reads `prev_name` (42_frame_fsm R139) -/

/-- The state with another name in `prev_name`. -/
def State.withPrevName (m : Option Mnemonic) (s : State) : State := { s with prevName := m }

theorem State.withPrevName_pinWriteStart (m : Option Mnemonic) (t : TS) (s : State) :
    (s.withPrevName m).pinWriteStart t = (s.pinWriteStart t).withPrevName m := by
  simp only [State.pinWriteStart_eq]
  rfl

/-- A completion writes `prev_name`, so the old one leaves no trace. -/
theorem complete_withPrevName (m : Option Mnemonic) (kind : RecKind) (ts te : TS) (s : State) :
    complete kind ts te (s.withPrevName m) = complete kind ts te s := rfl

theorem execDataWriteLast_withPrevName (m : Option Mnemonic) (b : Byte) (s : State) :
    execDataWriteLast b (s.withPrevName m) = execDataWriteLast b s := by
  rw [execDataWriteLast, State.withPrevName_pinWriteStart]
  rfl

theorem countByte_withPrevName (m : Option Mnemonic) (b : Byte) (s : State) :
    countByte b (s.withPrevName m) = mapResult (State.withPrevName m) (countByte b s) := by
  simp only [countByte, mapResult_readReg]
  rfl

theorem execDataWriteMore_withPrevName (m : Option Mnemonic) (b : Byte) (s : State) :
    execDataWriteMore b (s.withPrevName m) = mapResult (State.withPrevName m) (execDataWriteMore b s) := by
  rw [execDataWriteMore, State.withPrevName_pinWriteStart]
  exact countByte_withPrevName m b _

/-- What is overwritten in the end does not matter before. -/
theorem mapResult_withPrevName_withPrevName (p q : Option Mnemonic) (r : Result) :
    mapResult (State.withPrevName q) (mapResult (State.withPrevName p) r) = mapResult (State.withPrevName q) r := by
  cases r <;> rfl

/-- Every rule either leaves `prev_name` as it was or writes it without reading it. -/
theorem mapResult_exec_withPrevName (p q : Option Mnemonic) (i : Instr) (s : State) :
    mapResult (State.withPrevName q) (exec i (s.withPrevName p)) = mapResult (State.withPrevName q) (exec i s) := by
  cases i with
  | evNone => rfl
  | evSessionStart => rfl
  | evSessionEnd => rfl
  | cmdWrite => rfl
  | cmdRead => rfl
  | cmdBadop b => rfl
  | regHighByte b => rfl
  | regLowByte b => simp only [exec, execRegLowByte, mapResult_readReg]; rfl
  | wcZeroRead => rfl
  | wcZeroWrite => rfl
  | wcNonzero b => simp only [exec, execWcNonzero, mapResult_readReg]; rfl
  | dataReadMore b =>
    simp only [exec, execDataReadMore, countByte_withPrevName, mapResult_withPrevName_withPrevName]
  | dataReadLast b => rfl
  | dataWriteMore b =>
    simp only [exec, execDataWriteMore_withPrevName, mapResult_withPrevName_withPrevName]
  | dataWriteLast b => simp only [exec, execDataWriteLast_withPrevName]

theorem mapResult_withPrevName_pastEvent (m : Option Mnemonic) (r : Result) :
    mapResult (State.withPrevName m) (pastEvent r) = pastEvent (mapResult (State.withPrevName m) r) := by
  cases r <;> rfl

theorem fetchWord_withPrevName (m : Option Mnemonic) (s : State) : fetchWord (s.withPrevName m) = fetchWord s := rfl

/-- The selection does not see `prev_name`, and the selected rule does not read it. -/
theorem mapResult_step_withPrevName (p q : Option Mnemonic) (s : State) :
    mapResult (State.withPrevName q) (step (s.withPrevName p)) = mapResult (State.withPrevName q) (step s) := by
  cases hw : fetchWord s with
  | error f => simp only [step, fetchWord_withPrevName, hw]
  | ok w =>
    cases hi : decode w with
    | error e => simp only [step, fetchWord_withPrevName, hw, hi]
    | ok i =>
      rw [step_of_fetch_of_decode hw hi, step_of_fetch_of_decode (fetchWord_withPrevName p s ▸ hw) hi,
        mapResult_withPrevName_pastEvent, mapResult_exec_withPrevName, mapResult_withPrevName_pastEvent]

/-- Settles O45: by the row a step selected, and by the rules one by one. -/
theorem prevNameFollowsResultsAndIsNeverRead : Obligations.PrevNameFollowsResultsAndIsNeverRead := by
  refine ⟨fun s t hstep => ?_, fun s p q => mapResult_step_withPrevName p q s⟩
  obtain ⟨hout, hname⟩ | ⟨r, hout, hname⟩ := (step_cases hstep).prevName
  · rw [hout, hname]
  · rw [hout, hname]

/-! ### No timeout (42_frame_fsm R143) -/

/-- With no event left, a step is EV_NONE and nothing is there to move past. -/
theorem step_of_no_event {s : State} (h : s.inp = []) : step s = .next s.quiet :=
  step_of_case (.evNone (congrArg PortSample.kind (s.port_nil h)) (by simp [State.quiet, h]))

theorem run_succ {s t : State} (h : step s = .next t) (k : Nat) :
    Host.Core.run core (k + 1) s = Host.Core.run core k t := by
  have hcore : core.step s = .next t := h
  simp only [Host.Core.run, hcore]

/-- Settles O49: by induction on the steps after the first, each of which finds the output quiet already. -/
theorem nothingHappensWithoutAnEvent : Obligations.NothingHappensWithoutAnEvent := by
  intro s k h
  induction k generalizing s with
  | zero => exact run_succ (step_of_no_event h) 0
  | succ k ih => exact (run_succ (step_of_no_event h) (k + 1)).trans (ih s.quiet h)

/-! ### A run of illegal opcode bytes (42_frame_fsm R127, 30_encoding R73) -/

theorem react_illegal {p : PortSample} {s : State} (hst : s.st = .cmd) (hk : p.kind = .byteTransfer)
    (hread : p.byte ≠ 0x41#8) (hwrite : p.byte ≠ 0x61#8) :
    react p s = .next (s.emit (.ce p.byte p.t0 p.t1)) :=
  step_of_case (.cmdBadop (s := s.present p) hk hst hread hwrite rfl)

/-- Settles O50: by induction on the bytes; after each one the FSM is in CMD again with every register kept. -/
theorem illegalOpcodesGiveOneErrorEach : Obligations.IllegalOpcodesGiveOneErrorEach := by
  intro s ps hst hps
  induction ps generalizing s with
  | nil => exact ⟨s.out, by simp [runEvents]⟩
  | cons p ps ih =>
    obtain ⟨⟨hk, hread, hwrite⟩, hrest⟩ := List.forall_mem_cons.1 hps
    obtain ⟨o, hrun⟩ := ih (s.emit (.ce p.byte p.t0 p.t1)) hst hrest
    refine ⟨o, ?_⟩
    rw [runEvents_cons (react_illegal hst hk hread hwrite), hrun, State.emit_taken, List.append_assoc]
    rfl

end Sys2Proof.Machine
end

section
/-! Proofs about errors and exceptions (spec 60_exceptions): nothing aborts, the causes that one record reflects, and no
partial record of an unfinished frame. -/

namespace Sys2Proof.Machine

/-! ### Nothing aborts (60_exceptions R171) -/

/-- Settles O40: every register that a live state's row reads is written, and the row keeps the state live. -/
theorem liveStatesAlwaysStep : Obligations.LiveStatesAlwaysStep := fun _ h => h.exists_step

/-! ### The causes of a result (60_exceptions R170, R172) -/

/-- A result reflects EC0 exactly where the ROM has no entry for its address. -/
theorem Record.isEC0_resultRec (kind : RecKind) (hi lo : Byte) (pbuf : List Byte) (ts te : TS) :
    (resultRec kind hi lo (regDirLookup (hex4 hi lo)) pbuf ts te).isEC0 = decide (romRead (hi ++ lo) = none) := by
  have habsent : regDirLookup (hex4 hi lo) = Config.unknownName ↔ romRead (hi ++ lo) = none :=
    unknownMeansAbsent.2 hi lo
  simp [Record.isEC0, resultRec, beq_eq_decide, habsent]

theorem Record.isEC1_writeResult (hi lo : Byte) (n : Mnemonic) (pbuf : List Byte) (ts te : TS) :
    (resultRec .writeResult hi lo n pbuf ts te).isEC1 = false := rfl

/-- The high byte of an address is its first half (30_encoding R74). -/
theorem extractLsb'_high_append (hi lo : Byte) : (hi ++ lo : RegAddr).extractLsb' 8 8 = hi :=
  BitVec.extractLsb'_append_eq_left

/-- An empty payload has no identifier, so a header-only WRITE reflects EC2 exactly at the marker. -/
theorem Record.isEC2_writeResult_nil (hi lo : Byte) (n : Mnemonic) (ts te : TS) :
    (resultRec .writeResult hi lo n [] ts te).isEC2 = decide (hi = 0x84#8) := by
  simp [Record.isEC2, resultRec, resultId, idField_nil, extractLsb'_high_append, beq_eq_decide]

/-- Settles O37: cause by cause. -/
theorem headerOnlyMarkerWriteReflectsItsCauses : Obligations.HeaderOnlyMarkerWriteReflectsItsCauses := by
  intro lo ts te
  simp [Record.causes, Record.isEC0_resultRec, Record.isEC1_writeResult, Record.isEC2_writeResult_nil]

/-! ### Steps that do not end in CMD are silent (42_frame_fsm R141, R145) -/

/-- The host has taken exactly the record that is out (70_reset_and_hazards R197). -/
theorem StepCase.taken {s t : State} (hc : StepCase s t) : t.taken = s.taken ++ t.out.toList := by
  cases hc <;> subst t <;> simp [State.afterRecord]

theorem StepCase.out_eq_none {s t : State} (hc : StepCase s t) (ht : t.st ≠ .cmd) : t.out = none :=
  hc.out_eq_none_or_cmd.resolve_right ht

theorem StepCase.taken_of_silent {s t : State} (hc : StepCase s t) (ht : t.out = none) : t.taken = s.taken := by
  rw [hc.taken, ht, Option.toList_none, List.append_nil]

theorem StepCase.prevName_of_silent {s t : State} (hc : StepCase s t) (ht : t.out = none) :
    t.prevName = s.prevName := by
  obtain ⟨-, h⟩ | ⟨r, hr, -⟩ := hc.prevName
  · exact h
  · simp [ht] at hr

/-! ### An unfinished frame (60_exceptions R173) -/

/-- The frame received so far still lacks the bytes `bs`: address bytes, the word-count byte and the `4N` payload bytes
it announces, or `rem` payload bytes (30_encoding R70, R75; 10_state R27). -/
inductive State.Lacks (s : State) : List Byte → Prop
  | address {hi lo n : Byte} {data : List Byte} (st : s.st = .regHigh) (len : data.length = 4 * n.toNat) :
      s.Lacks (hi :: lo :: n :: data)
  | addressLow {lo n : Byte} {data : List Byte} (st : s.st = .regLow) (len : data.length = 4 * n.toNat) :
      s.Lacks (lo :: n :: data)
  | wordCount {n : Byte} {data : List Byte} (st : s.st = .wordCount) (len : data.length = 4 * n.toNat) :
      s.Lacks (n :: data)
  | payload {r : RemCount} {bs : List Byte} (collecting : s.collecting) (rem : s.rem = some r)
      (len : bs.length = r.toNat) : s.Lacks bs

theorem State.Lacks.st_ne_cmd {s : State} {bs : List Byte} (h : s.Lacks bs) : s.st ≠ .cmd := by
  intro hst
  cases h with
  | address st _ | addressLow st _ | wordCount st _ => rw [hst] at st; cases st
  | payload hc _ _ => simp [State.collecting, hst] at hc

/-- A byte that is not the frame's last is received, and the frame then lacks the bytes after it (42_frame_fsm
R128-R130, R133, R135). -/
theorem State.Lacks.exists_react {s : State} {p : PortSample} {bs : List Byte} (h : s.Lacks (p.byte :: bs))
    (hlive : s.Live) (hbs : bs ≠ []) (hk : p.kind = .byteTransfer) : ∃ t, react p s = .next t ∧ t.Lacks bs := by
  cases h with
  | address hst hlen => exact ⟨_, react_regHigh hst hk, .addressLow rfl hlen⟩
  | addressLow hst hlen =>
    obtain ⟨hi, hhi⟩ := Option.isSome_iff_exists.1 (hlive.highByte hst)
    exact ⟨_, react_regLow hst hhi hk, .wordCount rfl hlen⟩
  | wordCount hst hlen =>
    obtain ⟨o, -, hop, -⟩ := hlive.exists_opened (by simp [hst])
    have hn : p.byte ≠ 0x00#8 := fun e => hbs (List.eq_nil_of_length_eq_zero (by simpa [e] using hlen))
    exact ⟨_, step_of_case (.wcNonzero (s := s.present p) o hk hst hn hop rfl),
      .payload (State.collecting_iff.2 (by cases o <;> simp [payloadState])) rfl
        (hlen.trans (payloadCount_toNat _).symm)⟩
  | @payload r _ hc hr hlen =>
    have hlast : r ≠ 1#10 := by rintro rfl; simp [hbs] at hlen
    rw [List.length_cons] at hlen
    obtain ⟨t, hreact, ht⟩ := hlive.exists_react_counted hc hr hlast hk
    obtain ⟨r', hr', hrem⟩ := ht.exists_rem hlive.toInv hc hr
    rw [List.length_singleton] at hrem
    exact ⟨t, hreact, .payload (ht.collecting hc) hr' (by omega)⟩

/-- `t` is reached from `s` in the middle of a frame that still lacks the bytes `bs`, and nothing was emitted since. -/
structure State.Unfinished (s t : State) (bs : List Byte) : Prop where
  live : t.Live
  lacks : t.Lacks bs
  out : t.out = none
  taken : t.taken = s.taken
  prevName : t.prevName = s.prevName

theorem State.Unfinished.exists_react {s t : State} {p : PortSample} {bs : List Byte}
    (h : s.Unfinished t (p.byte :: bs)) (hbs : bs ≠ []) (hk : p.kind = .byteTransfer) :
    ∃ u, react p t = .next u ∧ s.Unfinished u bs := by
  obtain ⟨u, hreact, hu⟩ := h.lacks.exists_react h.live hbs hk
  have hc : StepCase (t.present p) u := step_cases hreact
  have hout := hc.out_eq_none hu.st_ne_cmd
  exact ⟨u, hreact, hc.live (h.live.present p), hu, hout, (hc.taken_of_silent hout).trans h.taken,
    (hc.prevName_of_silent hout).trans h.prevName⟩

/-- As long as bytes are still lacking the frame stays unfinished, by induction on the bytes received. -/
theorem State.Unfinished.exists_runEvents {s t : State} {ps : List PortSample} {bs : List Byte}
    (h : s.Unfinished t (ps.map PortSample.byte ++ bs)) (hbs : bs ≠ []) (hk : ∀ p ∈ ps, p.kind = .byteTransfer) :
    ∃ u, runEvents ps t = .next u ∧ s.Unfinished u bs := by
  induction ps generalizing t with
  | nil => exact ⟨t, rfl, h⟩
  | cons p ps ih =>
    obtain ⟨hkp, hkps⟩ := List.forall_mem_cons.1 hk
    obtain ⟨u, hreact, hu⟩ := State.Unfinished.exists_react h (by simp [hbs]) hkp
    rw [runEvents_cons hreact]
    exact ih hu hkps

/-- The opcode byte begins a frame. Only the buffer need be empty before it: a frame writes each register before a rule
reads it. -/
theorem exists_react_opcode_unfinished {o : Opcode} {s : State} {p : PortSample} {hi lo n : Byte} {data : List Byte}
    (hst : s.st = .cmd) (hbuf : s.pbuf = []) (hk : p.kind = .byteTransfer) (hb : p.byte = opcodeByte o)
    (hlen : data.length = 4 * n.toNat) :
    ∃ t, react p s = .next t ∧ s.Unfinished t (hi :: lo :: n :: data) := by
  refine ⟨_, react_opcode o hst hk hb, ⟨?_, nofun⟩, .address rfl hlen, rfl, rfl, rfl⟩
  exact .of_header (.inl rfl) hbuf rfl rfl nofun

/-- A proper non-empty start of a frame of either opcode leaves it unfinished. -/
theorem exists_runEvents_take_unfinished {o : Opcode} {s : State} {hi lo n : Byte} {data : List Byte}
    {ps : List PortSample} {k : Nat} (hst : s.st = .cmd) (hbuf : s.pbuf = []) (hlen : data.length = 4 * n.toNat)
    (hps : delivers ps (opcodeByte o :: hi :: lo :: n :: data)) (hk₁ : 1 ≤ k) (hk : k < ps.length) :
    ∃ t bs, runEvents (ps.take k) s = .next t ∧ s.Unfinished t bs := by
  obtain ⟨p, qs, rfl, hkp, hp, hkqs, hqs⟩ := delivers_cons hps
  obtain ⟨j, rfl⟩ := Nat.exists_eq_add_of_le' hk₁
  obtain ⟨t, hreact, ht⟩ := exists_react_opcode_unfinished (hi := hi) (lo := lo) hst hbuf hkp hp hlen
  rw [← hqs, ← List.take_append_drop j qs, List.map_append] at ht
  have hrest : (qs.drop j).map PortSample.byte ≠ [] := by simpa using hk
  obtain ⟨u, hrun, hu⟩ := ht.exists_runEvents hrest fun q hq => hkqs q (List.mem_of_mem_take hq)
  exact ⟨u, _, by rw [List.take_succ_cons, runEvents_cons hreact, hrun], hu⟩

/-- A session-start drops whatever was received, without a record (42_frame_fsm R122). -/
theorem react_sessionStart {p : PortSample} (s : State) (hk : p.kind = .sessionStart) :
    react p s = .next { s.discard.quiet with st := .cmd } :=
  step_of_case (.evSessionStart (s := s.present p) hk rfl)

/-- Settles O55: the frame is unfinished, for the opcode of its first byte, and then dropped. -/
theorem unfinishedFrameEmitsNothing : Obligations.UnfinishedFrameEmitsNothing := by
  intro s o hi lo n data ps p k hst hbuf ho hlen hps hk₁ hk hp
  obtain ⟨c, rfl⟩ : ∃ c, o = opcodeByte c := by
    rcases ho with rfl | rfl
    · exact ⟨.write, rfl⟩
    · exact ⟨.read, rfl⟩
  obtain ⟨t, bs, hrun, ht⟩ := exists_runEvents_take_unfinished hst hbuf hlen hps hk₁ hk
  exact ⟨t, _, hrun, ht.taken, ht.out, ht.lacks.st_ne_cmd, react_sessionStart t hp, ht.taken, rfl, rfl,
    { t.untouched_discard with }, ht.prevName⟩

end Sys2Proof.Machine
end

section
/-! Proofs about reset and the host's side of a run (spec 70_reset_and_hazards): the power-on state, the records the
host takes, and the way back to CMD. -/

namespace Sys2Proof.Machine

/-! ### Power-on (70_reset_and_hazards R190) -/

/-- Settles O1: field by field. -/
theorem powerOnStateIsIdle : Obligations.PowerOnStateIsIdle :=
  ⟨rfl, rfl, rfl, rfl, rfl, rfl, rfl, rfl, rfl, rfl, rfl, rfl, rfl⟩

/-- Settles O38: in CMD with every Transaction register unwritten, nothing else is asked. -/
theorem powerOnStateMeetsTheInvariants : Obligations.PowerOnStateMeetsTheInvariants := State.live_reset

/-! ### The output count (42_frame_fsm R141, 70_reset_and_hazards R197) -/

/-- A rule without a record gives the host nothing to take. -/
theorem output_of_silent {s t : State} (hout : t.out = none) (htaken : t.taken = s.taken) :
    t.taken = s.taken ++ t.out.toList ∧ t.out.isSome = false := by
  simp [hout, htaken]

/-- The record of an emitting rule is the one the host takes. -/
theorem output_of_record {s t : State} {r : Record} (hout : t.out = some r) (htaken : t.taken = s.taken ++ [r]) :
    t.taken = s.taken ++ t.out.toList ∧ t.out.isSome = true := by
  simp [hout, htaken]

/-- Settles O44: rule by rule; the four that complete a Transaction leave the state after its record. -/
theorem outputCountFollowsTheRule : Obligations.OutputCountFollowsTheRule := by
  intro i s t h
  cases i with
  | evNone | evSessionStart | evSessionEnd | cmdWrite | cmdRead | regHighByte => cases h; exact output_of_silent rfl rfl
  | regLowByte | wcNonzero =>
    obtain ⟨_, -, h⟩ := readReg_next.1 h
    cases h; exact output_of_silent rfl rfl
  | dataReadMore => obtain ⟨_, -, rfl⟩ := countByte_next.1 h; exact output_of_silent rfl rfl
  | dataWriteMore => obtain ⟨_, -, rfl⟩ := execDataWriteMore_next.1 h; exact output_of_silent rfl rfl
  | cmdBadop => cases h; exact output_of_record rfl rfl
  | wcZeroRead | wcZeroWrite =>
    obtain ⟨_, _, _, _, -, -, -, -, rfl⟩ := headerOnly_next.1 h; exact output_of_record rfl rfl
  | dataReadLast =>
    obtain ⟨_, _, _, _, -, -, -, -, rfl⟩ := execDataReadLast_next.1 h; exact output_of_record rfl rfl
  | dataWriteLast =>
    obtain ⟨_, _, _, _, -, -, -, -, rfl⟩ := execDataWriteLast_next.1 h; exact output_of_record rfl rfl

/-! ### The way back to CMD (42_frame_fsm R142, 70_reset_and_hazards R194) -/

/-- The most byte-transfers that can still come before the FSM is in CMD: the payload bytes counted by `rem`, or the
header bytes to come and the longest payload, 1020 bytes (10_state R27, 30_encoding R75). -/
def State.bytesLeft (s : State) : Nat :=
  match s.st with
  | .cmd => 0
  | .regHigh => 1023
  | .regLow => 1022
  | .wordCount => 1021
  | .dataRead => (s.rem.map BitVec.toNat).getD 0
  | .dataWrite => (s.rem.map BitVec.toNat).getD 0

theorem State.bytesLeft_of_cmd {s : State} (hst : s.st = .cmd) : s.bytesLeft = 0 := by
  simp [State.bytesLeft, hst]

/-- In the payload states `rem` is the number of bytes left (10_state R27). -/
theorem State.bytesLeft_of_collecting {s : State} {r : RemCount} (hc : s.collecting) (hr : s.rem = some r) :
    s.bytesLeft = r.toNat := by
  rcases State.collecting_iff.1 hc with hst | hst <;> simp [State.bytesLeft, hst, hr]

/-- An open Transaction needs another byte, and never more than a whole frame after its opcode byte (10_state R37
item 4). -/
theorem State.Inv.bytesLeft_bounds {s : State} (h : s.Inv) (hst : s.st ≠ .cmd) :
    1 ≤ s.bytesLeft ∧ s.bytesLeft ≤ 1023 := by
  cases hs : s.st with
  | cmd => exact absurd hs hst
  | regHigh | regLow | wordCount => simp [State.bytesLeft, hs]
  | dataRead | dataWrite =>
    have hc : s.collecting := by simp [State.collecting, hs]
    obtain ⟨r, -, hr, -, hpos, hle, -⟩ := h.counted hc
    rw [State.bytesLeft_of_collecting hc hr]
    omega

/-- Counting a payload byte lowers the number of bytes left. -/
theorem State.Inv.remPred_lt_bytesLeft {s : State} (h : s.Inv) {r : RemCount} (hc : s.collecting)
    (hr : s.rem = some r) : (remPred s.plen r).toNat < s.bytesLeft := by
  obtain ⟨r', -, hr', -, hpos, -⟩ := h.counted hc
  obtain rfl : r = r' := by simpa [hr] using hr'
  rw [State.bytesLeft_of_collecting hc hr, remPred_toNat s.plen r hpos]
  omega

/-- A byte-transfer outside CMD brings the FSM nearer to it: a header byte and a counted payload byte are used up, and a
completion is back in CMD (42_frame_fsm R128-R136). -/
theorem StepCase.bytesLeft_lt {s t : State} (h : s.Inv) (hst : s.st ≠ .cmd) (hk : s.port.kind = .byteTransfer)
    (hc : StepCase s t) : t.bytesLeft < s.bytesLeft := by
  have hpos := (h.bytesLeft_bounds hst).1
  cases hc with
  | evNone k _ | evSessionStart k _ | evSessionEnd k _ => simp [hk] at k
  | cmdWrite _ f _ _ | cmdRead _ f _ _ | cmdBadop _ f _ _ _ => exact absurd f hst
  | regHighByte _ f e | regLowByte _ _ f _ e => simp [e, State.bytesLeft, f]
  | wcNonzero o _ f _ _ e =>
    have hcount := payloadCount_toNat s.port.byte
    have hbyte := s.port.byte.isLt
    have ht : t.bytesLeft = (payloadCount s.port.byte).toNat :=
      State.bytesLeft_of_collecting (by subst e; cases o <;> rfl) (by rw [e])
    have hs : s.bytesLeft = 1021 := by simp [State.bytesLeft, f]
    omega
  | dataReadMore r _ f a _ e | dataWriteMore r _ f a _ e =>
    have hs : s.collecting := by simp [State.collecting, f]
    rw [State.bytesLeft_of_collecting (s := t) (by subst e; exact hs) (by rw [e])]
    exact h.remPred_lt_bytesLeft hs a
  | wcZeroRead _ _ _ _ _ _ _ _ _ _ _ _ e | wcZeroWrite _ _ _ _ _ _ _ _ _ _ _ _ e
  | dataReadLast _ _ _ _ _ _ _ _ _ _ _ e | dataWriteLast _ _ _ _ _ _ _ _ _ _ _ e =>
    rwa [State.bytesLeft_of_cmd (s := t) (by rw [e]; rfl)]

theorem State.Live.exists_react_bytesLeft_lt {s : State} {p : PortSample} (h : s.Live) (hst : s.st ≠ .cmd)
    (hk : p.kind = .byteTransfer) : ∃ t, react p s = .next t ∧ t.Live ∧ t.bytesLeft < s.bytesLeft := by
  have hp := h.present p
  obtain ⟨t, hc⟩ := hp.exists_stepCase
  have hlt : t.bytesLeft < (s.present p).bytesLeft := hc.bytesLeft_lt hp.toInv hst hk
  exact ⟨t, step_of_case hc, hc.live hp, hlt⟩

/-- As many byte-transfers as are left at most bring the FSM to CMD on the way, by induction on the bytes. -/
theorem State.Live.exists_runEvents_take_cmd {ps : List PortSample} {s : State} (h : s.Live) (hst : s.st ≠ .cmd)
    (hk : ∀ p ∈ ps, p.kind = .byteTransfer) (hlen : s.bytesLeft ≤ ps.length) :
    ∃ k t, 1 ≤ k ∧ k ≤ s.bytesLeft ∧ runEvents (ps.take k) s = .next t ∧ t.st = .cmd := by
  have hpos := (h.bytesLeft_bounds hst).1
  induction ps generalizing s with
  | nil => exact absurd (hpos.trans hlen) (by simp)
  | cons p ps ih =>
    obtain ⟨hkp, hkps⟩ := List.forall_mem_cons.1 hk
    obtain ⟨t, hreact, ht, hlt⟩ := h.exists_react_bytesLeft_lt hst hkp
    rw [List.length_cons] at hlen
    by_cases htcmd : t.st = .cmd
    · exact ⟨1, t, le_rfl, hpos, runEvents_cons hreact [], htcmd⟩
    · obtain ⟨k, u, hk₁, hk₂, hrun, hu⟩ := ih ht htcmd hkps (by omega) (ht.bytesLeft_bounds htcmd).1
      exact ⟨k + 1, u, by omega, by omega, by rw [List.take_succ_cons, runEvents_cons hreact, hrun], hu⟩

/-- Settles O57: at most 1023 bytes are left. -/
theorem bytesBringTheFsmBackToCmd : Obligations.BytesBringTheFsmBackToCmd := by
  intro s ps h hst hk hlen
  have hle := (h.bytesLeft_bounds hst).2
  obtain ⟨k, t, hk₁, hk₂, hrun, ht⟩ := h.exists_runEvents_take_cmd hst hk (hle.trans hlen)
  exact ⟨k, t, hk₁, hk₂.trans hle, hrun, ht⟩

end Sys2Proof.Machine
end

section
/-! Proofs about the state as a whole and its transitions (spec 10_state R37, 42_frame_fsm section 5, 30_encoding
section 1): the invariants, the transition table, and the frame of a READ. -/

namespace Sys2Proof.Machine

/-! ### The invariants (10_state R37) -/

/-- Settles O39: row by row (`StepCase.inv`). A row that changes no Transaction register keeps the items as they are, a
header byte keeps the buffer empty, a payload byte moves one byte from `rem` to the buffer, and a completion or a
session-start leaves nothing written. -/
theorem everyStepKeepsTheInvariants : Obligations.EveryStepKeepsTheInvariants :=
  fun _ _ hinv hstep => (step_cases hstep).inv hinv

/-! ### The transition table (42_frame_fsm R144) -/

/-- Settles O43: by the row that a live state's step runs, whose premises name the line of the table it stands on. -/
theorem transitionsFollowTheTable : Obligations.TransitionsFollowTheTable := by
  intro s hlive
  obtain ⟨t, hc⟩ := hlive.exists_stepCase
  refine ⟨t, step_of_case hc, ?_⟩
  cases hc with
  | evNone k e | evSessionStart k e | evSessionEnd k e => simp [k, e]
  | cmdWrite k f b e | cmdRead k f b e => simp [k, f, b, e]
  | cmdBadop k f b b' e => simp [k, f, b, b', e, Record.ce]
  | regHighByte k f e | regLowByte _ k f _ e => simp [k, f, e]
  | wcNonzero o k f b a e => simp [k, f, b, a, e, payloadState_eq_ite]
  | wcZeroRead _ _ _ _ k f b a _ _ _ _ e | wcZeroWrite _ _ _ _ k f b a _ _ _ _ e =>
    have hbuf : s.pbuf = [] := hlive.pbuf_nil (by simp [State.collecting, f])
    simp [k, f, b, a, e, hbuf, State.afterRecord, Record.rd, Record.wr]
  | dataReadMore r k f a a' e | dataWriteMore r k f a a' e => simp [k, f, a, a', e]
  | dataReadLast _ _ _ _ k f a _ _ _ _ e | dataWriteLast _ _ _ _ k f a _ _ _ _ e =>
    simp [k, f, a, e, State.afterRecord, Record.rd, Record.wr]

/-! ### The frame of a READ (30_encoding R70, R71, R75) -/

/-- Settles O54: the frame of opcode READ; its start time is the opcode byte's, and a Read-Result has no identifier. -/
theorem readFrameIsReassembled : Obligations.ReadFrameIsReassembled :=
  fun _ _ _ _ _ _ hst hbuf hlen hps => runEvents_frame (o := .read) hst hbuf hlen hps

end Sys2Proof.Machine
end

section
/-! Proofs about the decode map (spec 30_encoding R81, R85): the row a word selects, the words that no row matches, and
the words that a state forms. -/

namespace Sys2Proof

/-! ### The fields of a word (30_encoding R80) -/

theorem EvKind.code_ofCode : ∀ k : BitVec 2, (EvKind.ofCode k).code = k := by decide

/-- Every word is formed of an event kind, a state code, two bits and a byte. -/
theorem DecodeWord.exists_form (w : DecodeWord) :
    ∃ (e : EvKind) (c : BitVec 3) (o l : Bool) (b : Byte), w = .form e.code c o l b := by
  have htop : ∀ x : BitVec 7, ∃ (k : BitVec 2) (c : BitVec 3) (o l : Bool),
      x = (k ++ c ++ BitVec.ofBool o ++ BitVec.ofBool l : BitVec 7) := by decide
  obtain ⟨k, c, o, l, hx⟩ := htop w.top
  exact ⟨.ofCode k, c, o, l, w.byte, by rw [EvKind.code_ofCode, form_eq_append, ← hx, ← eq_append]⟩

@[simp] theorem DecodeWord.kind_form (k : BitVec 2) (c : BitVec 3) (o l : Bool) (b : Byte) :
    (DecodeWord.form k c o l b).kind = k := by
  apply BitVec.eq_of_getLsbD_eq
  intro i hi
  simp only [kind, form, BitVec.getLsbD_extractLsb', BitVec.getLsbD_append]
  simp [hi, show ¬ 13 + i < 8 by omega, show 13 + i - 8 = i + 5 by omega]

@[simp] theorem DecodeWord.state_form (k : BitVec 2) (c : BitVec 3) (o l : Bool) (b : Byte) :
    (DecodeWord.form k c o l b).state = c := by
  apply BitVec.eq_of_getLsbD_eq
  intro i hi
  simp only [state, form, BitVec.getLsbD_extractLsb', BitVec.getLsbD_append]
  simp [hi, show ¬ 10 + i < 8 by omega, show 10 + i - 8 = i + 2 by omega]

/-- A state code names a state unless it is one of the two missing ones (10_state R21). -/
theorem FsmState.map_code_ofCode? : ∀ c : BitVec 3,
    (ofCode? c).map code = if c = 0b110#3 ∨ c = 0b111#3 then none else some c := by decide

theorem FsmState.exists_code {c : BitVec 3} (h : ¬ (c = 0b110#3 ∨ c = 0b111#3)) : ∃ f : FsmState, c = f.code := by
  have hmap := map_code_ofCode? c
  rw [if_neg h] at hmap
  obtain ⟨f, -, hf⟩ := Option.map_eq_some_iff.1 hmap
  exact ⟨f, hf.symm⟩

/-! ### Which words decode (30_encoding R81, R85) -/

/-- The instruction of a byte in a state is well-formed: the rows of priority 2 come after those that take 0x41, 0x61
and 0x00. -/
theorem exists_decode_byte (f : FsmState) (o l : Bool) (b : Byte) :
    ∃ i, decode (.form EvKind.byteTransfer.code f.code o l b) = .ok i ∧ i.WellFormed := by
  cases f with
  | cmd =>
    refine ⟨_, decode_cmd o l b, ?_⟩
    split_ifs with hwrite hread
    · rfl
    · rfl
    · simp [Instr.WellFormed, Instr.wf, hwrite, hread]
  | regHigh => exact ⟨_, decode_regHigh o l b, rfl⟩
  | regLow => exact ⟨_, decode_regLow o l b, rfl⟩
  | wordCount =>
    refine ⟨_, decode_wordCount o l b, ?_⟩
    split_ifs with hzero
    · rfl
    · rfl
    · simp [Instr.WellFormed, Instr.wf, hzero]
  | dataRead => exact ⟨_, decode_dataRead o l b, by cases l <;> rfl⟩
  | dataWrite => exact ⟨_, decode_dataWrite o l b, by cases l <;> rfl⟩

/-- A word whose state code is asked for only where it names a state decodes to a well-formed instruction. -/
theorem exists_decode_form {e : EvKind} {c : BitVec 3} (h : e ≠ .byteTransfer ∨ ∃ f : FsmState, c = f.code)
    (o l : Bool) (b : Byte) : ∃ i, decode (.form e.code c o l b) = .ok i ∧ i.WellFormed := by
  cases e with
  | none => exact ⟨_, decode_none c o l b, rfl⟩
  | sessionStart => exact ⟨_, decode_sessionStart c o l b, rfl⟩
  | sessionEnd => exact ⟨_, decode_sessionEnd c o l b, rfl⟩
  | byteTransfer =>
    obtain ⟨f, rfl⟩ := h.resolve_left (not_not.2 rfl)
    exact exists_decode_byte f o l b

/-- No row is for a byte in a missing state. -/
theorem decode_missing {c : BitVec 3} (hc : c = 0b110#3 ∨ c = 0b111#3) (o l : Bool) (b : Byte) :
    decode (.form EvKind.byteTransfer.code c o l b) = .error (.noStateOfCode c) := by
  have hrow : selectRow (.form EvKind.byteTransfer.code c o l b) = none := by
    rw [DecodeWord.form_eq_append]
    rcases hc with rfl | rfl <;> cases o <;> cases l <;>
      simp [selectRow, decodeMap, Row.hits_append, DecodeWord.top, EvKind.code]
  rw [decode, hrow, DecodeWord.state_form]

/-- The word is a byte in a state code that names no state (30_encoding R81, R85). -/
def DecodeWord.Stateless (w : DecodeWord) : Prop := w.kind = 0b10#2 ∧ (w.state = 0b110#3 ∨ w.state = 0b111#3)

/-- Every word that is not stateless decodes to a well-formed instruction, and a stateless one is refused. -/
theorem decode_cases (w : DecodeWord) :
    (¬ w.Stateless ∧ ∃ i, decode w = .ok i ∧ i.WellFormed) ∨
      (w.Stateless ∧ decode w = .error (.noStateOfCode w.state)) := by
  obtain ⟨e, c, o, l, b, rfl⟩ := w.exists_form
  rw [DecodeWord.Stateless, DecodeWord.kind_form, DecodeWord.state_form]
  cases e with
  | none | sessionStart | sessionEnd =>
    exact .inl ⟨fun h => absurd h.1 (by decide), exists_decode_form (.inl (by decide)) o l b⟩
  | byteTransfer =>
    by_cases hc : c = 0b110#3 ∨ c = 0b111#3
    · exact .inr ⟨⟨rfl, hc⟩, decode_missing hc o l b⟩
    · exact .inl ⟨fun h => hc h.2, exists_decode_form (.inr (FsmState.exists_code hc)) o l b⟩

/-- Settles O23: a word is stateless or decodes, never both. -/
theorem onlyWordsWithoutAStateAreRefused : Obligations.OnlyWordsWithoutAStateAreRefused := by
  intro w
  obtain ⟨hstate, i, hi, -⟩ | ⟨hmissing, herr⟩ := decode_cases w
  · exact ⟨fun herr => absurd (hi.symm.trans herr) nofun, fun h => absurd h hstate⟩
  · exact ⟨fun _ => hmissing, fun _ => herr⟩

/-! ### The selected row (30_encoding R81) -/

/-- The priorities are 1 and 2. -/
theorem prio_of_mem_decodeMap : ∀ r ∈ decodeMap, r.prio = 1 ∨ r.prio = 2 := by
  simp [decodeMap]

/-- The selected row matches the word, and no matching row goes before it. -/
theorem selectRow_spec {w : DecodeWord} {r : Row} (h : selectRow w = some r) :
    r ∈ decodeMap ∧ r.hits w = true ∧ ∀ q ∈ decodeMap, q.hits w = true → r.prio ≤ q.prio := by
  unfold selectRow at h
  split at h
  next r' hfirst =>
    cases h
    obtain ⟨hprio, hhits⟩ : r.prio = 1 ∧ r.hits w = true := by simpa using List.find?_some hfirst
    refine ⟨List.mem_of_find?_eq_some hfirst, hhits, fun q hq _ => ?_⟩
    have := prio_of_mem_decodeMap q hq
    omega
  next hnone =>
    obtain ⟨hprio, hhits⟩ : r.prio = 2 ∧ r.hits w = true := by simpa using List.find?_some h
    refine ⟨List.mem_of_find?_eq_some h, hhits, fun q hq hqhits => ?_⟩
    have hq1 : q.prio ≠ 1 := fun e => by simpa [e, hqhits] using List.find?_eq_none.1 hnone q hq
    have := prio_of_mem_decodeMap q hq
    omega

theorem decode_eq_ok {w : DecodeWord} {i : Instr} :
    decode w = .ok i ↔ ∃ r, selectRow w = some r ∧ r.build w.byte = i := by
  unfold decode
  cases selectRow w <;> simp

/-- What decodes is well-formed: the other words are refused. -/
theorem wellFormed_of_decode {w : DecodeWord} {i : Instr} (hi : decode w = .ok i) : i.WellFormed := by
  obtain ⟨-, j, hj, hwf⟩ | ⟨-, herr⟩ := decode_cases w
  · cases hi.symm.trans hj
    exact hwf
  · cases hi.symm.trans herr

/-- Settles O21: the row is the selected one. -/
theorem decodedWordMatchesItsRow : Obligations.DecodedWordMatchesItsRow := by
  intro w i hi
  obtain ⟨r, hr, hbuild⟩ := decode_eq_ok.1 hi
  obtain ⟨hmem, hhits, hmin⟩ := selectRow_spec hr
  exact ⟨wellFormed_of_decode hi, r, hmem, hhits, hbuild, hmin⟩

/-- Two rows that match one word ask for the same bits where both look. -/
theorem Row.agree_of_hits {q r : Row} {w : DecodeWord} (hq : q.hits w = true) (hr : r.hits w = true) :
    q.pattern &&& r.mask = r.pattern &&& q.mask := by
  simp only [Row.hits, beq_iff_eq] at hq hr
  rw [← hq, ← hr, BitVec.and_assoc, BitVec.and_assoc, BitVec.and_comm q.mask]

/-- Two different rows of one priority ask for different bits somewhere where both look. -/
theorem mnemonic_eq_of_agree : ∀ q ∈ decodeMap, ∀ r ∈ decodeMap,
    q.prio = r.prio → q.pattern &&& r.mask = r.pattern &&& q.mask → q.mnemonic = r.mnemonic := by decide

/-- Settles O22: a word that matches two rows makes them agree. -/
theorem rowsOfOnePriorityAreDisjoint : Obligations.RowsOfOnePriorityAreDisjoint :=
  fun q hq r hr _ hprio hqw hrw => mnemonic_eq_of_agree q hq r hr hprio (Row.agree_of_hits hqw hrw)

end Sys2Proof

namespace Sys2Proof.Machine

/-! ### No refusal (30_encoding R81, R85) -/

theorem readReg_ne_refused {α : Type} {r : Reg} {v : Option α} {k : α → Result} {f : Refusal}
    (hk : ∀ x, k x ≠ .refused f) : readReg r v k ≠ .refused f := by
  cases v with
  | none => nofun
  | some x => exact hk x

theorem complete_ne_refused (kind : RecKind) (ts te : TS) (s : State) (f : Refusal) :
    complete kind ts te s ≠ .refused f :=
  readReg_ne_refused fun _ => readReg_ne_refused fun _ => readReg_ne_refused fun _ => nofun

/-- Every instruction of the decode map has a meaning: a rule goes on or reads an unwritten register. -/
theorem exec_ne_refused (i : Instr) (s : State) (f : Refusal) : exec i s ≠ .refused f := by
  cases i with
  | evNone | evSessionStart | evSessionEnd | cmdWrite | cmdRead | cmdBadop | regHighByte => nofun
  | regLowByte | wcNonzero | dataReadMore | dataWriteMore => exact readReg_ne_refused fun _ => nofun
  | wcZeroRead | wcZeroWrite | dataReadLast | dataWriteLast =>
    exact readReg_ne_refused fun _ => complete_ne_refused _ _ _ _ f

/-- The word a state forms decodes: its state code names the state. -/
theorem State.exists_decode (s : State) : ∃ i, decode s.decodeWord = .ok i := by
  obtain ⟨i, hi, -⟩ := exists_decode_form (e := s.port.kind) (.inr ⟨s.st, rfl⟩) (s.op == some .write)
    (s.rem == some 1#10) s.port.byte
  exact ⟨i, hi⟩

/-- Settles O24: the selection stops with a fault or finds a row, and no row's rule refuses. -/
theorem noStepRefuses : Obligations.NoStepRefuses := by
  intro s f
  cases hw : fetchWord s with
  | error _ => simp [step, hw]
  | ok w =>
    obtain ⟨-, rfl⟩ := fetchWord_ok.1 hw
    obtain ⟨i, hi⟩ := s.exists_decode
    rw [step_of_fetch_of_decode hw hi]
    cases he : exec i s with
    | next _ => nofun
    | fault _ => nofun
    | refused g => exact absurd he (exec_ne_refused i s g)

/-! ### Reading an unwritten register (10_state, opening paragraph) -/

theorem readReg_of_eq_none {α : Type} {r : Reg} {v : Option α} (h : v = none) (k : α → Result) :
    readReg r v k = .fault (.readUnwritten r) := by
  rw [h, readReg_none]

/-- Settles O18: rule by rule, its first read; a write's start time is pinned only by a byte that finds the buffer
empty. -/
theorem unwrittenRegisterReadFaults : Obligations.UnwrittenRegisterReadFaults := by
  intro s b
  refine ⟨fun h => readReg_of_eq_none h _, fun h => readReg_of_eq_none h _,
    fun h => ⟨readReg_of_eq_none h _, readReg_of_eq_none ((State.pinWriteStart_rem s _).trans h) _⟩,
    fun h => ⟨readReg_of_eq_none h _, readReg_of_eq_none h _, readReg_of_eq_none h _⟩, fun h hlen => ?_⟩
  have hbuf : s.pbuf ≠ [] := fun e => hlen (by simp [e])
  have hpin : (s.pinWriteStart s.startTime).tWrStart = none := by rw [State.pinWriteStart_tWrStart, if_neg hbuf, h]
  exact readReg_of_eq_none hpin _

end Sys2Proof.Machine
end
